-- ==== Sys2Proof/Word.lean ====
section
/-! DEFINITION. The data words of WYCORE (00_scope.md R13, R17), the two variant names (R2) and a secret table. -/

namespace Sys2Proof

/-- Every data word is 64 bits unsigned (00_scope.md R13). -/
abbrev Word := BitVec 64

/-- One byte of a message or of an entropy answer (00_scope.md R19). -/
abbrev Byte := BitVec 8

/-- The two algorithm variants (00_scope.md R2): code 0 is legacy v4, code 1 is current v4.2. -/
inductive Variant where
  | legacy
  | current
deriving DecidableEq, Repr

/-- A secret table is four 64-bit words (00_scope.md R13). -/
structure Table where
  w0 : Word
  w1 : Word
  w2 : Word
  w3 : Word
deriving DecidableEq, Repr

end Sys2Proof
end

