-- ==== Sys2Proof/Syntax.lean ====
section
/-! DEFINITION. The commands of WYCORE: one constructor per row of spec/opcode_table.json (30_encoding.md R102),
with the two fields a command word may carry, `V` and `CNT` (R101, R103, R104). -/

namespace Sys2Proof

/-- A command. `v` is the variant field of the commands that have one (30_encoding.md R103); `c` is the 4-bit byte
count of HABS (R104), legal up to 8. -/
inductive Instr where
  | nop
  | mum
  | mix
  | pseed (v : Variant)
  | pnext
  | hinit (v : Variant)
  | hinitd (v : Variant)
  | hinitrf (v : Variant)
  | hinitrp (v : Variant)
  | habs (c : BitVec 4)
  | hfin
  | rseed
  | rsecret (v : Variant)
  | schk
deriving DecidableEq, Repr

end Sys2Proof
end

