-- ==== Sys2Proof/WellFormed.lean ====
section
/-! DEFINITION. Which commands have a legal word (30_encoding.md R104, R106). -/

namespace Sys2Proof

/-- The one field that syntax does not already bound: the count of HABS is 0 to 8 (30_encoding.md R104). -/
def Instr.wellFormed : Instr → Bool
  | .habs c => c ≤ 8
  | _ => true

end Sys2Proof
end

