-- ==== Sys2Proof/Decode.lean ====
section
/-! DEFINITION. The command word (30_encoding.md R100 to R110): the opcode map, the decoder, total on every 64-bit
word and every byte list and rejecting by name, and the encoder. -/

namespace Sys2Proof

/-- The opcodes of 30_encoding.md R102. -/
inductive Op where
  | nop | mum | mix | pseed | pnext | hinit | hinitd | hinitrf | hinitrp | habs | hfin | rseed | rsecret | schk
deriving DecidableEq, Repr

/-- Why a word is no command: the conditions of 30_encoding.md R106 in order, and bytes that are not one 64-bit write.
The machine reports all of them as E_ILLEGAL; the names are the model's own (log 11). -/
inductive Illegal where
  | reservedOpcode
  | z7NotZero
  | z31NotZero
  | z63NotZero
  | variantNotUsed
  | countNotUsed
  | countTooLarge
  | notOneWord
deriving DecidableEq, Repr

/-- The `OP` value of an opcode (30_encoding.md R102). -/
def Op.code : Op → BitVec 6
  | .nop => 0x00
  | .mum => 0x01
  | .mix => 0x02
  | .pseed => 0x08
  | .pnext => 0x09
  | .hinit => 0x10
  | .hinitd => 0x11
  | .hinitrf => 0x12
  | .hinitrp => 0x13
  | .habs => 0x14
  | .hfin => 0x15
  | .rseed => 0x18
  | .rsecret => 0x19
  | .schk => 0x1A

/-- All opcodes, in the order of 30_encoding.md R102. -/
def Op.all : List Op :=
  [.nop, .mum, .mix, .pseed, .pnext, .hinit, .hinitd, .hinitrf, .hinitrp, .habs, .hfin, .rseed, .rsecret, .schk]

/-- The opcode an `OP` value names; every value not in 30_encoding.md R102 is reserved. -/
def Op.ofCode (b : BitVec 6) : Option Op :=
  Op.all.find? (fun o => o.code == b)

/-- The column "V used" of 30_encoding.md R102. -/
def Op.usesVariant : Op → Bool
  | .pseed | .hinit | .hinitd | .hinitrf | .hinitrp | .rsecret => true
  | .nop | .mum | .mix | .pnext | .habs | .hfin | .rseed | .schk => false

/-- The column "CNT used" of 30_encoding.md R102. -/
def Op.usesCount : Op → Bool
  | .habs => true
  | .nop | .mum | .mix | .pseed | .pnext | .hinit | .hinitd | .hinitrf | .hinitrp | .hfin | .rseed | .rsecret
  | .schk => false

/-- The `V` bit of a variant: 0 is legacy v4, 1 is current v4.2 (30_encoding.md R101). -/
def Variant.bit : Variant → Bool
  | .legacy => false
  | .current => true

/-- The variant a `V` bit names (30_encoding.md R101). -/
def Variant.ofBit (b : Bool) : Variant :=
  if b then .current else .legacy

/-- The fields of a command word (30_encoding.md R101). -/
def opField (w : Word) : BitVec 6 := w.extractLsb' 0 6
def vField (w : Word) : Bool := w.getLsbD 6
def z7Field (w : Word) : Bool := w.getLsbD 7
def cntField (w : Word) : BitVec 4 := w.extractLsb' 8 4
def z31Field (w : Word) : BitVec 20 := w.extractLsb' 12 20
def z63Field (w : Word) : BitVec 32 := w.extractLsb' 32 32

/-- The command with a given opcode and fields. -/
def Instr.ofOp (v : Variant) (c : BitVec 4) : Op → Instr
  | .nop => .nop
  | .mum => .mum
  | .mix => .mix
  | .pseed => .pseed v
  | .pnext => .pnext
  | .hinit => .hinit v
  | .hinitd => .hinitd v
  | .hinitrf => .hinitrf v
  | .hinitrp => .hinitrp v
  | .habs => .habs c
  | .hfin => .hfin
  | .rseed => .rseed
  | .rsecret => .rsecret v
  | .schk => .schk

/-- The decoder (30_encoding.md R108), total on every 64-bit word; the conditions are those of R106. -/
def decode (w : Word) : Except Illegal Instr :=
  match Op.ofCode (opField w) with
  | none => .error .reservedOpcode
  | some o =>
    if z7Field w then .error .z7NotZero
    else if z31Field w ≠ 0 then .error .z31NotZero
    else if z63Field w ≠ 0 then .error .z63NotZero
    else if vField w && !o.usesVariant then .error .variantNotUsed
    else if !o.usesCount && cntField w != 0 then .error .countNotUsed
    else if 8 < cntField w then .error .countTooLarge
    else .ok (Instr.ofOp (Variant.ofBit (vField w)) (cntField w) o)

/-- The little-endian word of a byte list, first byte least significant: `LE_k` (00_scope.md R19), and the order in
which a bus word lies in memory (20_memory.md R77). -/
def leWord : List Byte → Word
  | [] => 0
  | b :: bs => b.setWidth 64 + (leWord bs <<< 8)

/-- The decoder on bytes: a command is one 64-bit write (30_encoding.md R100), eight bytes with the least significant
first (20_memory.md R77). Any other number of bytes is no command word. -/
def decodeBytes (bs : List Byte) : Except Illegal Instr :=
  if bs.length = 8 then decode (leWord bs) else .error .notOneWord

/-- The opcode of a command. -/
def Instr.op : Instr → Op
  | .nop => .nop
  | .mum => .mum
  | .mix => .mix
  | .pseed _ => .pseed
  | .pnext => .pnext
  | .hinit _ => .hinit
  | .hinitd _ => .hinitd
  | .hinitrf _ => .hinitrf
  | .hinitrp _ => .hinitrp
  | .habs _ => .habs
  | .hfin => .hfin
  | .rseed => .rseed
  | .rsecret _ => .rsecret
  | .schk => .schk

/-- The `V` field of a command's word: 0 for every command without one (30_encoding.md R103). -/
def Instr.vBit : Instr → Bool
  | .pseed v | .hinit v | .hinitd v | .hinitrf v | .hinitrp v | .rsecret v => v.bit
  | .nop | .mum | .mix | .pnext | .habs _ | .hfin | .rseed | .schk => false

/-- The `CNT` field of a command's word: 0 for every command but HABS (30_encoding.md R104). -/
def Instr.cnt : Instr → BitVec 4
  | .habs c => c
  | .nop | .mum | .mix | .pseed _ | .pnext | .hinit _ | .hinitd _ | .hinitrf _ | .hinitrp _ | .hfin | .rseed
  | .rsecret _ | .schk => 0

/-- The encoder: `match = OP | (V << 6) | (CNT << 8)` (30_encoding.md R109). -/
def encode (i : Instr) : Word :=
  i.op.code.setWidth 64 ||| ((BitVec.ofBool i.vBit).setWidth 64 <<< 6) ||| (i.cnt.setWidth 64 <<< 8)

/-- The suffix of a command with a variant (30_encoding.md R111). -/
def Variant.suffix : Variant → String
  | .legacy => ".v0"
  | .current => ".v1"

/-- A command as the assembler writes it (30_encoding.md R111). -/
def Instr.asm : Instr → String
  | .nop => "NOP"
  | .mum => "MUM"
  | .mix => "MIX"
  | .pseed v => "PSEED" ++ v.suffix
  | .pnext => "PNEXT"
  | .hinit v => "HINIT" ++ v.suffix
  | .hinitd v => "HINITD" ++ v.suffix
  | .hinitrf v => "HINITRF" ++ v.suffix
  | .hinitrp v => "HINITRP" ++ v.suffix
  | .habs c => "HABS " ++ toString c.toNat
  | .hfin => "HFIN"
  | .rseed => "RSEED"
  | .rsecret v => "RSECRET" ++ v.suffix
  | .schk => "SCHK"

/-- The commands with a legal word (30_encoding.md R110). -/
def Instr.legal : List Instr :=
  [.nop, .mum, .mix, .pnext, .hfin, .rseed, .schk] ++
    [Variant.legacy, .current].flatMap (fun v => [.pseed v, .hinit v, .hinitd v, .hinitrf v, .hinitrp v, .rsecret v]) ++
    (List.range 9).map (fun c => .habs (BitVec.ofNat 4 c))

/-- The command an assembler text names (30_encoding.md R111); the suffix is mandatory, and no other text is a command. -/
def Instr.ofAsm (text : String) : Option Instr := Instr.legal.find? (fun i => i.asm == text)

/-- The word whose bits are `w` in the numbering of spec/opcode_table.json; a WYCORE command is one 64-bit word, so
the row's numbering is the word's own (30_encoding.md R101). -/
def tableWord (nbits w : Nat) : Word := BitVec.ofNat 64 (w % 2 ^ nbits)

/-- The command the decoder reads from a table word. Bits above the first 64 make it no command word. -/
def decodeTableWord (nbits w : Nat) : Option Instr :=
  if w % 2 ^ nbits < 2 ^ 64 then (decode (tableWord nbits w)).toOption else none

end Sys2Proof
end

