-- ==== Sys2Proof/Config.lean ====
section
/-! DEFINITION. The configuration of WYCORE: the named parameters of 00_scope.md R14, their legal values, the spec's
defaults, the one parameter set the machine's step uses, and the free value of a read while busy (20_memory.md R78).
A parameter set is configuration, never state (00_scope.md R16). -/

namespace Sys2Proof

/-- `PREMIX[v]` (43_hash.md R193). -/
inductive Premix where
  | mixPremix
  | xorPremix
deriving DecidableEq, Repr

/-- `FINISH[v]` (43_hash.md R200). -/
inductive Finish where
  | mumFinish
  | nestedFinish
deriving DecidableEq, Repr

/-- `SECRET_SRC` (44_random.md R244). -/
inductive SecretSrc where
  | seeded
  | direct
deriving DecidableEq, Repr

/-- The parameters that exist once per variant (00_scope.md R14, R16). -/
structure VariantParams where
  prngAdd : Word
  prngXor : Word
  defaultSecret : Table
  premix : Premix
  finish : Finish
deriving DecidableEq, Repr

/-- All parameters of 00_scope.md R14. `mid0` and `mid1` are `MID_SECRET[0]` and `MID_SECRET[1]`; a band is the list
of the population counts in it; `retryCap` is `SECRET_RETRY_CAP`, `none` for `NONE`. -/
structure Params where
  legacy : VariantParams
  current : VariantParams
  mid0 : Fin 4
  mid1 : Fin 4
  secretSrc : SecretSrc
  bytePopBand : List Nat
  requireOdd : Bool
  pairPopBand : List Nat
  requirePrime : Bool
  retryCap : Option Nat
deriving DecidableEq, Repr

/-- The parameter set of a variant (00_scope.md R16). -/
def Params.of (P : Params) : Variant → VariantParams
  | .legacy => P.legacy
  | .current => P.current

/-- `MID_SECRET[k]` (43_hash.md R197; k is 0 or 1, because the loop runs at most twice). -/
def Params.midSecret (P : Params) (k : Nat) : Fin 4 :=
  if k = 0 then P.mid0 else P.mid1

/-- The legal values of 00_scope.md R14. -/
def Params.legal (P : Params) : Bool :=
  P.legacy.prngAdd.getLsbD 0 && P.current.prngAdd.getLsbD 0
    && !P.bytePopBand.isEmpty && P.bytePopBand.all (· ≤ 8)
    && !P.pairPopBand.isEmpty && P.pairPopBand.all (· ≤ 64)
    && P.retryCap != some 0

/-- The defaults of 00_scope.md R14. PRESUMED: the spec marks every numeric value here as general knowledge (log 3). -/
def Params.default : Params where
  legacy :=
    { prngAdd := 0xa0761d6478bd642f
      prngXor := 0xe7037ed1a0b428db
      defaultSecret := ⟨0xa0761d6478bd642f, 0xe7037ed1a0b428db, 0x8ebc6af09c88c6e3, 0x589965cc75374cc3⟩
      premix := .mixPremix
      finish := .mumFinish }
  current :=
    { prngAdd := 0x2d358dccaa6c78a5
      prngXor := 0x8bb84b93962eacc9
      defaultSecret := ⟨0x2d358dccaa6c78a5, 0x8bb84b93962eacc9, 0x4b33a62ed433d4a3, 0x4d5a2da51de1aa47⟩
      premix := .mixPremix
      finish := .mumFinish }
  mid0 := 1
  mid1 := 1
  secretSrc := .seeded
  bytePopBand := [4]
  requireOdd := true
  pairPopBand := [32]
  requirePrime := true
  retryCap := none

/-- The parameter set of the machine that `step` runs: the spec's defaults (log 3). Every function of the engines
takes the parameter set as an argument; only the meanings that `exec` calls are given this one. -/
def Config.params : Params := Params.default

/-- What a HOST read of a result or state register returns while a command is in flight: an unspecified 64-bit value,
"a draw, under no law" (20_memory.md R78). A free value: it has no body, and the counter `freeCount` of State makes
each draw a fresh one (log 6). -/
opaque Config.unspecifiedRead : Nat → Word

end Sys2Proof
end

