-- ==== Sys2Proof/Machine/State.lean ====
section
/-! DEFINITION. The state of WYCORE (10_state.md R30), the moves of the agents around it (00_scope.md R11), the reasons
a step can stop, and the state after reset (10_state.md R56). -/

namespace Sys2Proof.Machine

/-- The completion codes of `STATUS.ERR` (60_exceptions.md R301); codes 7 to 15 are never written. -/
inductive Err where
  | success
  | illegal
  | noctx
  | seq
  | length
  | entropy
  | retry
deriving DecidableEq, Repr

/-- The values of `HPHASE` (10_state.md R43): NONE, OPEN and FINAL; the value 3 is never reached. -/
inductive Phase where
  | none
  | opened
  | final
deriving DecidableEq, Repr

/-- A per-process secret cell: the valid bit `PSV[v]` and the words `PSEC[v][0..3]` (10_state.md R50). -/
structure Cell where
  valid : Bool
  words : Table
deriving DecidableEq, Repr

/-- An answer of ENTROPY to one draw: eight bytes `e[0]` to `e[7]`, or `FAIL` (20_memory.md R86). -/
inductive Answer where
  | ok (e0 e1 e2 e3 e4 e5 e6 e7 : Byte)
  | fail
deriving DecidableEq, Repr

/-- A HOST access: its width in bits, its byte offset from `WYCORE_BASE`, and for a write the value
(00_scope.md R21, 20_memory.md R71, R73). -/
inductive Access where
  | read (width offset : Nat)
  | write (width offset : Nat) (value : Word)
deriving DecidableEq, Repr

/-- A move that an agent other than CORE, or CORE at a chosen moment, makes next (log 1).
`access`, `wait` and `expectErr` are HOST's (30_encoding.md R112, R113), `answer` is ENTROPY's (20_memory.md R86),
`core` gives CORE its turn (40_control.md R133), `reset` is the platform's (70_reset_and_hazards.md R340), and
`secondHost` is an access by a second HOST agent (60_exceptions.md R314). -/
inductive Input where
  | access (a : Access)
  | wait
  | expectErr (k : BitVec 4)
  | answer (a : Answer)
  | core
  | reset
  | secondHost (a : Access)
deriving DecidableEq, Repr

/-- Why a step of an agent faults. -/
inductive Fault where
  /-- Raised by the HOST step that makes an access 20_memory.md R72 or R73 refuses; the fault names the access
  (20_memory.md R74, 93_implementation_defined.md U8). It is HOST's alone: `hostAccess` answers it, and `hostStep` records
  it in `State.faults`, so that a command in flight goes on (60_exceptions.md R305, log 7). Safe. -/
  | busError (a : Access)
deriving DecidableEq, Repr

/-- Why the machine gives no meaning. -/
inductive Refusal where
  /-- Raised by an arm of `exec` that has no meaning yet; no arm of this model raises it. Safe. -/
  | notModelled (mnemonic : String)
  /-- Raised by an access of a second HOST agent to the one instance: outside the spec, refused
  (60_exceptions.md R314, 93_implementation_defined.md U1). Safe. -/
  | secondHost (a : Access)
deriving DecidableEq, Repr

/-- The state of one instance (log 16). The fields down to `cell1` are the architectural state of 10_state.md R30; the last six are the
model's own: the answers ENTROPY has given to the command in flight, how many candidates CORE has had time to build for
it, the moves to come, what HOST's reads have returned and which of HOST's steps have faulted (each newest first), and the
counter of the free values. -/
structure State where
  arg0 : Word
  arg1 : Word
  arg2 : Word
  arg3 : Word
  arg4 : Word
  res0 : Word
  res1 : Word
  res2 : Word
  res3 : Word
  ir : Word
  busy : Bool
  ovr : Bool
  err : Err
  lastop : BitVec 6
  pstate : Word
  pvalid : Bool
  pvar : Variant
  hseed : Word
  hsec : Table
  hvar : Variant
  hphase : Phase
  hlen : Word
  hmsg : List Byte
  cell0 : Cell
  cell1 : Cell
  answers : List Answer
  effort : Nat
  inputs : List Input
  reads : List Word
  faults : List Fault
  freeCount : Nat
deriving DecidableEq, Repr

/-- What a step answers. -/
abbrev Result := Host.Outcome State Fault Refusal

/-- The table of four zero words. -/
def zeroTable : Table := ⟨0, 0, 0, 0⟩

/-- The state right after reset: every field at the value of 10_state.md R56, which leaves none unspecified, and the
model's own fields empty (log 1, log 4, log 5, log 6, log 7, log 9). -/
def State.reset : State where
  arg0 := 0
  arg1 := 0
  arg2 := 0
  arg3 := 0
  arg4 := 0
  res0 := 0
  res1 := 0
  res2 := 0
  res3 := 0
  ir := 0
  busy := false
  ovr := false
  err := .success
  lastop := 0
  pstate := 0
  pvalid := false
  pvar := .legacy
  hseed := 0
  hsec := zeroTable
  hvar := .legacy
  hphase := .none
  hlen := 0
  hmsg := []
  cell0 := ⟨false, zeroTable⟩
  cell1 := ⟨false, zeroTable⟩
  answers := []
  effort := 0
  inputs := []
  reads := []
  faults := []
  freeCount := 0

end Sys2Proof.Machine
end

