-- ==== Sys2Proof/Machine/Operands.lean ====
section
/-! DEFINITION. The operand forms of the commands (30_encoding.md R105) and the byte-level reads (00_scope.md R19,
43_hash.md R191): bytes of a word, packed bytes, little-endian reads of a message, secret tables. -/

namespace Sys2Proof.Machine

/-- Bits `8k+7:8k` of a word: byte k of a register on the bus (20_memory.md R77), of packed bytes (R81) and of a
candidate (44_random.md R246). -/
def byteOf (w : Word) (k : Nat) : Byte := w.extractLsb' (8 * k) 8

/-- The first `c` packed bytes of an operand word, in absorption order (20_memory.md R81, 43_hash.md R207). -/
def packedBytes (w : Word) (c : Nat) : List Byte := (List.range c).map (byteOf w)

/-- `popcount` (00_scope.md R18): the number of one bits. -/
def popcount {n : Nat} (v : BitVec n) : Nat := (List.range n).countP v.getLsbD

/-- `LE_k(M, i)` (00_scope.md R19): the k bytes of M from position i, first byte least significant. -/
def readLE (k : Nat) (m : List Byte) (i : Nat) : Word := leWord ((m.drop i).take k)

/-- `R8` (43_hash.md R191). -/
def read8 (m : List Byte) (i : Nat) : Word := readLE 8 m i

/-- `R4`, zero-extended to 64 bits (43_hash.md R191). -/
def read4 (m : List Byte) (i : Nat) : Word := readLE 4 m i

/-- `zext_64(M[i])` (00_scope.md R18). -/
def byteAt (m : List Byte) (i : Nat) : Word := (m.getD i 0).setWidth 64

/-- `R3(M, k)` for 1 ≤ k ≤ 3 (43_hash.md R191). -/
def read3 (m : List Byte) (k : Nat) : Word :=
  (byteAt m 0 <<< 16) ||| (byteAt m (k >>> 1) <<< 8) ||| byteAt m (k - 1)

/-- Word i of a secret table. -/
def tableGet (t : Table) : Fin 4 → Word
  | 0 => t.w0
  | 1 => t.w1
  | 2 => t.w2
  | 3 => t.w3

/-- The words of a secret table in order. -/
def tableList (t : Table) : List Word := [t.w0, t.w1, t.w2, t.w3]

/-- The table operand of HINIT and SCHK: `ARG1` to `ARG4` (30_encoding.md R105). -/
def State.argTable (s : State) : Table := ⟨s.arg1, s.arg2, s.arg3, s.arg4⟩

end Sys2Proof.Machine
end

