-- ==== Sys2Proof/Machine/Flags.lean ====
section
/-! DEFINITION. The flags of WYCORE: the fields of `STATUS` (10_state.md R35) and the mirror bits of `CFG` (R49), each
as the word HOST reads. No command writes a flag as a side effect of its arithmetic (R53). -/

namespace Sys2Proof.Machine

/-- The number of a completion code (60_exceptions.md R301). -/
def Err.code : Err → BitVec 4
  | .success => 0
  | .illegal => 1
  | .noctx => 2
  | .seq => 3
  | .length => 4
  | .entropy => 5
  | .retry => 6

/-- The number of a phase (10_state.md R43). -/
def Phase.code : Phase → BitVec 2
  | .none => 0
  | .opened => 1
  | .final => 2

/-- The `CFG.SRC` bit (10_state.md R49): 0 is SEEDED, 1 is DIRECT. -/
def srcBit : SecretSrc → Bool
  | .seeded => false
  | .direct => true

/-- `STATUS` as HOST reads it (10_state.md R35): bits 63:14 reserved, LASTOP 13:8, ERR 7:4, 3:2 reserved, OVR 1, BUSY 0. -/
def State.status (s : State) : Word :=
  (0 : BitVec 50) ++ s.lastop ++ s.err.code ++ (0 : BitVec 2) ++ BitVec.ofBool s.ovr ++ BitVec.ofBool s.busy

/-- `CFG` as HOST reads it (10_state.md R49), for a parameter set: bits 63:8 reserved, SRC 7, PSV1 6, PSV0 5, HVAR 4,
HPHASE 3:2, PVAR 1, PVALID 0. -/
def State.cfg (P : Params) (s : State) : Word :=
  (0 : BitVec 56) ++ BitVec.ofBool (srcBit P.secretSrc) ++ BitVec.ofBool s.cell1.valid ++ BitVec.ofBool s.cell0.valid
    ++ BitVec.ofBool s.hvar.bit ++ s.hphase.code ++ BitVec.ofBool s.pvar.bit ++ BitVec.ofBool s.pvalid

end Sys2Proof.Machine
end

