-- ==== Sys2Proof/Machine/Ops.lean ====
section
/-! DEFINITION. The operations the commands share: completion and error completion (40_control.md R133,
60_exceptions.md R302), waiting (R134), the writes of the generator, of the hash context and of a secret cell, issue
(R130) and reset (70_reset_and_hazards.md R340). -/

namespace Sys2Proof.Machine

/-- The completion step's own writes (40_control.md R133): `ERR` receives the code, `LASTOP` receives `IR[5:0]`, `BUSY`
is cleared. The answers given to the command and the time it had are gone with it (log 4, log 5); `IR` stays (log 15). -/
def State.finish (s : State) (e : Err) : State :=
  { s with err := e, lastop := opField s.ir, busy := false, answers := [], effort := 0 }

/-- `complete` (00_scope.md R22): completion with `ERR` 0. -/
def State.complete (s : State) : State := s.finish .success

/-- `raise E_X` (00_scope.md R22, 60_exceptions.md R302): the command completes with the code and changes nothing else.
WYCORE's form of taking an exception: no pc, status or mode is saved, and there is no handler (R300, R308). -/
def State.raise (s : State) (e : Err) : State := s.finish e

/-- CORE's turn with the command still in flight (40_control.md R134, 70_reset_and_hazards.md R361): nothing
architectural changes, and the next turn has had time for more candidates (log 4). -/
def State.stall (s : State) : State := { s with effort := 2 * s.effort + 1 }

/-- A hash construction (43_hash.md R205): a fresh context with no carried-over state. -/
def State.construct (s : State) (seed : Word) (S : Table) (v : Variant) : State :=
  { s with hseed := seed, hsec := S, hvar := v, hmsg := [], hlen := 0, hphase := .opened }

/-- The secret cell of a variant (10_state.md R50). -/
def State.cell (s : State) : Variant → Cell
  | .legacy => s.cell0
  | .current => s.cell1

/-- A write of the secret cell of a variant (44_random.md R250). -/
def State.setCell (s : State) (v : Variant) (c : Cell) : State :=
  match v with
  | .legacy => { s with cell0 := c }
  | .current => { s with cell1 := c }

/-- A write of all four result registers (44_random.md R252). -/
def State.setResults (s : State) (t : Table) : State :=
  { s with res0 := t.w0, res1 := t.w1, res2 := t.w2, res3 := t.w3 }

/-- The message space is well formed (10_state.md R47): `HLEN` is the number of absorbed bytes. A byte list has one
form only, so this is all a well-formed message space needs (log 14). -/
abbrev Memory.wf (s : State) : Prop := s.hlen.toNat = s.hmsg.length

/-- An append to the message space (43_hash.md R207): the bytes in absorption order, and `HLEN` grows by their number. -/
def State.append (s : State) (bs : List Byte) : State :=
  { s with hmsg := s.hmsg ++ bs, hlen := s.hlen + BitVec.ofNat 64 bs.length }

/-- Issue (40_control.md R130): the block latches the written word and goes busy. -/
def State.issue (s : State) (w : Word) : State := { s with ir := w, busy := true }

/-- A dropped write (40_control.md R131, R132): only `OVR` is set. -/
def State.overrun (s : State) : State := { s with ovr := true }

/-- Reset (70_reset_and_hazards.md R340): every piece of state at its reset value, a command in flight abandoned, and
its outstanding entropy request with it. The moves to come, what HOST has read, the faults of its steps (never cleared,
20_memory.md R74) and the counter of the free values are not WYCORE's and stay (log 7, log 9). -/
def State.resetBlock (s : State) : State :=
  { State.reset with inputs := s.inputs, reads := s.reads, faults := s.faults, freeCount := s.freeCount }

/-- A fault of a HOST step is recorded (20_memory.md R74): nothing of WYCORE changes. -/
def State.recordFault (s : State) (f : Fault) : State := { s with faults := f :: s.faults }

/-- The state in which CORE's completion step of a command word is the very next step: the word latched, the block busy,
CORE to move. -/
def State.fetchNext (s : State) (w : Word) : State :=
  { s.issue w with inputs := .core :: s.inputs }

end Sys2Proof.Machine
end

