-- ==== Sys2Proof/Machine/Bus.lean ====
section
/-! DEFINITION. HOST's side: the register window (20_memory.md R71 to R78), the writes HOST may make
(40_control.md R130 to R132, R138), and the lines of a HOST program (30_encoding.md R112, R113). -/

namespace Sys2Proof.Machine

/-- The registers of the window (20_memory.md R72). -/
inductive Reg where
  | cmd | status | arg0 | arg1 | arg2 | arg3 | arg4 | res0 | res1 | res2 | res3 | pstate | hseed
  | hsec0 | hsec1 | hsec2 | hsec3 | hlen | cfg
deriving DecidableEq, Repr

/-- The byte offset of a register (20_memory.md R72). -/
def Reg.offset : Reg → Nat
  | .cmd => 0x00
  | .status => 0x08
  | .arg0 => 0x10
  | .arg1 => 0x18
  | .arg2 => 0x20
  | .arg3 => 0x28
  | .arg4 => 0x30
  | .res0 => 0x40
  | .res1 => 0x48
  | .res2 => 0x50
  | .res3 => 0x58
  | .pstate => 0x60
  | .hseed => 0x68
  | .hsec0 => 0x70
  | .hsec1 => 0x78
  | .hsec2 => 0x80
  | .hsec3 => 0x88
  | .hlen => 0x90
  | .cfg => 0x98

/-- All registers of the window, by offset. -/
def Reg.all : List Reg :=
  [.cmd, .status, .arg0, .arg1, .arg2, .arg3, .arg4, .res0, .res1, .res2, .res3, .pstate, .hseed,
    .hsec0, .hsec1, .hsec2, .hsec3, .hlen, .cfg]

/-- The register at an offset; the other offsets of the window are reserved (20_memory.md R72). -/
def Reg.ofOffset (off : Nat) : Option Reg := Reg.all.find? (fun r => r.offset == off)

/-- The registers HOST may write (20_memory.md R72). -/
def Reg.writable : Reg → Bool
  | .cmd | .status | .arg0 | .arg1 | .arg2 | .arg3 | .arg4 => true
  | .res0 | .res1 | .res2 | .res3 | .pstate | .hseed | .hsec0 | .hsec1 | .hsec2 | .hsec3 | .hlen | .cfg => false

/-- The registers whose reads are exact while a command is in flight (20_memory.md R78). -/
def Reg.exactWhileBusy : Reg → Bool
  | .cmd | .status | .arg0 | .arg1 | .arg2 | .arg3 | .arg4 => true
  | .res0 | .res1 | .res2 | .res3 | .pstate | .hseed | .hsec0 | .hsec1 | .hsec2 | .hsec3 | .hlen | .cfg => false

/-- The register an access of a given width at an offset reaches (20_memory.md R72, R73): 64 bits, at a multiple of 8. -/
def Reg.reached (width off : Nat) : Option Reg :=
  if width = 64 ∧ off % 8 = 0 then Reg.ofOffset off else none

/-- The value of a register (20_memory.md R72); `CMD` reads as zero (10_state.md R33). -/
def State.regValue (P : Params) (s : State) : Reg → Word
  | .cmd => 0
  | .status => s.status
  | .arg0 => s.arg0
  | .arg1 => s.arg1
  | .arg2 => s.arg2
  | .arg3 => s.arg3
  | .arg4 => s.arg4
  | .res0 => s.res0
  | .res1 => s.res1
  | .res2 => s.res2
  | .res3 => s.res3
  | .pstate => s.pstate
  | .hseed => s.hseed
  | .hsec0 => s.hsec.w0
  | .hsec1 => s.hsec.w1
  | .hsec2 => s.hsec.w2
  | .hsec3 => s.hsec.w3
  | .hlen => s.hlen
  | .cfg => s.cfg P

/-- `BusRead` of a register (00_scope.md R21): the value HOST gets. While a command is in flight the reads that are not
exact are free values (20_memory.md R78, log 6). -/
def busReadValue (r : Reg) (s : State) : Word :=
  if s.busy && !r.exactWhileBusy then Config.unspecifiedRead s.freeCount else s.regValue Config.params r

/-- `BusRead` of a register: a read changes nothing of WYCORE (20_memory.md R76); HOST has the value (log 9), and a free
value is not drawn twice. -/
def busRead (r : Reg) (s : State) : State :=
  { s with
    reads := busReadValue r s :: s.reads
    freeCount := if s.busy && !r.exactWhileBusy then s.freeCount + 1 else s.freeCount }

/-- An operand register replaced (40_control.md R132). -/
def State.setArg (s : State) (r : Reg) (x : Word) : State :=
  match r with
  | .arg0 => { s with arg0 := x }
  | .arg1 => { s with arg1 := x }
  | .arg2 => { s with arg2 := x }
  | .arg3 => { s with arg3 := x }
  | .arg4 => { s with arg4 := x }
  | .cmd | .status | .res0 | .res1 | .res2 | .res3 | .pstate | .hseed | .hsec0 | .hsec1 | .hsec2 | .hsec3 | .hlen
  | .cfg => s

/-- A write to `STATUS` (40_control.md R138): bit 1 clears `OVR`, whether or not the block is busy. -/
def writeStatus (x : Word) (s : State) : State :=
  if x.getLsbD 1 then { s with ovr := false } else s

/-- A write to `CMD` (40_control.md R130, R131). -/
def writeCmd (x : Word) (s : State) : State := if s.busy then s.overrun else s.issue x

/-- A write to an operand register (40_control.md R132). -/
def writeArg (r : Reg) (x : Word) (s : State) : State := if s.busy then s.overrun else s.setArg r x

/-- `BusWrite` of a writable register (00_scope.md R21, 20_memory.md R76). -/
def busWrite (r : Reg) (x : Word) (s : State) : State :=
  match r with
  | .cmd => writeCmd x s
  | .status => writeStatus x s
  | .arg0 | .arg1 | .arg2 | .arg3 | .arg4 => writeArg r x s
  | .res0 | .res1 | .res2 | .res3 | .pstate | .hseed | .hsec0 | .hsec1 | .hsec2 | .hsec3 | .hlen | .cfg => s

/-- The legal accesses (20_memory.md R72, R73). -/
def Access.legal : Access → Bool
  | .read width off => (Reg.reached width off).isSome
  | .write width off _ => (Reg.reached width off).any Reg.writable

/-- A HOST access: its effect, or the bus error of the HOST step that made it (20_memory.md R74). -/
def hostAccess (a : Access) (s : State) : Result :=
  match a with
  | .read width off =>
    match Reg.reached width off with
    | some r => .next (busRead r s)
    | none => .fault (.busError a)
  | .write width off x =>
    match Reg.reached width off with
    | some r => if r.writable then .next (busWrite r x s) else .fault (.busError a)
    | none => .fault (.busError a)

/-- A step of HOST that makes an access. A bus error is a fault of this step: it is recorded, and nothing else happens, so
that a command in flight is not disturbed (20_memory.md R74, 60_exceptions.md R305, log 7). -/
def hostStep (a : Access) (s : State) : Result :=
  match hostAccess a s with
  | .next t => .next t
  | .fault f => .next (s.recordFault f)
  | .refused r => .refused r

/-- One poll of `WAIT` (30_encoding.md R112): HOST reads `STATUS` until bit 0 reads 0; CORE has a turn between polls. -/
def waitPoll (s : State) : State :=
  if s.status.getLsbD 0 then { s with inputs := .core :: .wait :: s.inputs } else s

/-- The moves that are HOST's own. -/
def Input.isHost : Input → Bool
  | .access _ | .wait | .expectErr _ => true
  | .answer _ | .core | .reset | .secondHost _ => false

/-- `EXPECT ERR=k` (30_encoding.md R113): HOST reads `STATUS` and compares bits 7:4; where they differ its program stops,
and WYCORE does nothing. -/
def expectErr (k : BitVec 4) (s : State) : State :=
  let s' := busRead .status s
  if (busReadValue .status s).extractLsb' 4 4 = k then s'
  else { s' with inputs := s'.inputs.filter (fun i => !i.isHost) }

/-- An answer of ENTROPY (20_memory.md R86) reaches the command in flight; with none in flight it answers an abandoned
request and is discarded (70_reset_and_hazards.md R340, log 5). -/
def takeAnswer (a : Answer) (s : State) : State :=
  if s.busy then { s with answers := s.answers ++ [a] } else s

/-- The offset of an address in the window at `base` (20_memory.md R71); an address outside is the platform's (R83). -/
def windowOffset (base addr : Nat) : Option Nat :=
  if base ≤ addr ∧ addr < base + 256 then some (addr - base) else none

/-- The byte at an address of the window as a platform presents it (20_memory.md R77): byte k of the register at offset o
stands at `WYCORE_BASE + o + k`. -/
def windowByte (P : Params) (base addr : Nat) (s : State) : Option Byte :=
  (windowOffset base addr).bind fun off =>
    (Reg.ofOffset (off / 8 * 8)).map fun r => byteOf (s.regValue P r) (off % 8)

/-- HOST's read of a given width at an address, for a window at `base` (20_memory.md R71). -/
def readAt (base width addr : Nat) : Option Input :=
  (windowOffset base addr).map fun off => .access (.read width off)

/-- HOST's write of a given width at an address, for a window at `base` (20_memory.md R71). -/
def writeAt (base width addr : Nat) (x : Word) : Option Input :=
  (windowOffset base addr).map fun off => .access (.write width off x)

/-- `WR <reg>, <imm64>` (30_encoding.md R112). -/
def lineWr (r : Reg) (x : Word) : List Input := [.access (.write 64 r.offset x)]

/-- `RD <reg>` (30_encoding.md R112). -/
def lineRd (r : Reg) : List Input := [.access (.read 64 r.offset)]

/-- `CMD <command>` (30_encoding.md R112). -/
def lineCmd (i : Instr) : List Input := lineWr .cmd (encode i)

/-- `WAIT` (30_encoding.md R112). -/
def lineWait : List Input := [.wait]

/-- `EXEC <command>` (30_encoding.md R113). -/
def lineExec (i : Instr) : List Input := lineCmd i ++ lineWait

/-- `EXPECT ERR=<k>` (30_encoding.md R113). -/
def lineExpect (k : BitVec 4) : List Input := [.expectErr k]

/-- `ABS64 <imm64>` (30_encoding.md R113). -/
def lineAbs64 (x : Word) : List Input := lineWr .arg0 x ++ lineExec (.habs 8)

/-- `ABSB <b0> … <bk−1>`, for 1 to 8 bytes (30_encoding.md R113). -/
def lineAbsb (bs : List Byte) : List Input := lineWr .arg0 (leWord bs) ++ lineExec (.habs (BitVec.ofNat 4 bs.length))

/-- `CLROVR` (30_encoding.md R113). -/
def lineClrovr : List Input := lineWr .status 2

end Sys2Proof.Machine
end

