-- ==== Sys2Proof/Machine/Mixer.lean ====
section
/-! DEFINITION. The mixer primitive and its two commands (41_mixer.md). -/

namespace Sys2Proof.Machine

/-- `wymum(a, b)` (41_mixer.md R150): the exact 128-bit product, low half first. -/
def wymum (a b : Word) : Word × Word :=
  let p : BitVec 128 := a.setWidth 128 * b.setWidth 128
  (p.extractLsb' 0 64, p.extractLsb' 64 64)

/-- `wymix(a, b)` (41_mixer.md R151): the product's halves folded by XOR. -/
def wymix (a b : Word) : Word :=
  (wymum a b).1 ^^^ (wymum a b).2

/-- MUM (41_mixer.md R153). -/
def execMum (s : State) : Result :=
  .next { s with res0 := (wymum s.arg0 s.arg1).1, res1 := (wymum s.arg0 s.arg1).2 }.complete

/-- MIX (41_mixer.md R154). -/
def execMix (s : State) : Result :=
  .next { s with res0 := wymix s.arg0 s.arg1 }.complete

end Sys2Proof.Machine
end

