-- ==== Sys2Proof/Machine/Hash.lean ====
section
/-! DEFINITION. The hash engine (43_hash.md): the digest function and the commands HINIT, HINITD, HABS and HFIN. -/

namespace Sys2Proof.Machine

/-- `Premix(v, seed, S)` (43_hash.md R193). -/
def premix (P : Params) (v : Variant) (seed : Word) (S : Table) : Word :=
  match (P.of v).premix with
  | .mixPremix => seed ^^^ wymix (seed ^^^ S.w0) S.w1
  | .xorPremix => seed ^^^ S.w0

/-- `Small(M, n)` for n ≤ 16 (43_hash.md R194). At n = 16 the pseudocode gives q = 8, its comment q = 4; the pseudocode is
followed (DEDUCED, log 18). -/
def small (m : List Byte) (n : Nat) : Word × Word :=
  if 4 ≤ n then
    let q := (n >>> 3) <<< 2
    ((read4 m 0 <<< 32) ||| read4 m q, (read4 m (n - 4) <<< 32) ||| read4 m (n - 4 - q))
  else if 0 < n then (read3 m n, 0)
  else (0, 0)

/-- The three lanes of the stride loop (43_hash.md R195). -/
structure Lanes where
  sd : Word
  see1 : Word
  see2 : Word
deriving DecidableEq, Repr

/-- One 48-byte stride at position p (43_hash.md R195). -/
def stride (S : Table) (m : List Byte) (p : Nat) (l : Lanes) : Lanes where
  sd := wymix (read8 m p ^^^ S.w1) (read8 m (p + 8) ^^^ l.sd)
  see1 := wymix (read8 m (p + 16) ^^^ S.w2) (read8 m (p + 24) ^^^ l.see1)
  see2 := wymix (read8 m (p + 32) ^^^ S.w3) (read8 m (p + 40) ^^^ l.see2)

/-- The lane fold (43_hash.md R196). -/
def Lanes.fold (l : Lanes) : Word := l.sd ^^^ l.see1 ^^^ l.see2

/-- The do-while loop of 43_hash.md R195: strides while more than 48 bytes remain. The first argument bounds the number
of further strides; the remaining length i is always enough, because each stride takes 48. -/
def strideLoop (S : Table) (m : List Byte) : Nat → Lanes → Nat → Nat → Lanes × Nat × Nat
  | 0, l, p, i => (l, p, i)
  | k + 1, l, p, i =>
    if 48 < i then strideLoop S m k (stride S m p l) (p + 48) (i - 48) else (l, p, i)

/-- `Strides(S, M, sd, p, i)`, entered only with i > 48 (43_hash.md R195, R196). -/
def strides (S : Table) (m : List Byte) (sd : Word) (p i : Nat) : Word × Nat × Nat :=
  let r := strideLoop S m i ⟨sd, sd, sd⟩ p i
  (r.1.fold, r.2.1, r.2.2)

/-- The loop of 43_hash.md R197: 16-byte blocks while more than 16 bytes remain, block k with secret word
`MID_SECRET[k]`. The first argument bounds the number of blocks, as in `strideLoop`. -/
def midLoop (P : Params) (S : Table) (m : List Byte) : Nat → Nat → Word → Nat → Nat → Word × Nat × Nat
  | 0, _, sd, p, i => (sd, p, i)
  | f + 1, k, sd, p, i =>
    if 16 < i then
      midLoop P S m f (k + 1) (wymix (read8 m p ^^^ tableGet S (P.midSecret k)) (read8 m (p + 8) ^^^ sd)) (p + 16) (i - 16)
    else (sd, p, i)

/-- `Mids(S, M, sd, p, i)` (43_hash.md R197). -/
def mids (P : Params) (S : Table) (m : List Byte) (sd : Word) (p i : Nat) : Word × Nat × Nat :=
  midLoop P S m i 0 sd p i

/-- `Tail(M, n)` for n > 16 (43_hash.md R198). -/
def tail (m : List Byte) (n : Nat) : Word × Word := (read8 m (n - 16), read8 m (n - 8))

/-- `Finish(v, S, a, b, sd, n)` (43_hash.md R200). -/
def finishDigest (P : Params) (v : Variant) (S : Table) (a b sd n : Word) : Word :=
  match (P.of v).finish with
  | .mumFinish =>
    wymix ((wymum (a ^^^ S.w1) (b ^^^ sd)).1 ^^^ S.w0 ^^^ n) ((wymum (a ^^^ S.w1) (b ^^^ sd)).2 ^^^ S.w1)
  | .nestedFinish => wymix (S.w1 ^^^ n) (wymix (a ^^^ S.w1) (b ^^^ sd))

/-- The strides, where there are any: `Digest` takes them only with more than 48 bytes (43_hash.md R192). -/
def stridesIfLong (S : Table) (m : List Byte) (sd : Word) (n : Nat) : Word × Nat × Nat :=
  if 48 < n then strides S m sd 0 n else (sd, 0, n)

/-- `Digest(v, seed, S, M)` (43_hash.md R192). -/
def digest (P : Params) (v : Variant) (seed : Word) (S : Table) (m : List Byte) : Word :=
  let n := m.length
  let sd := premix P v seed S
  if n ≤ 16 then
    let ab := small m n
    finishDigest P v S ab.1 ab.2 sd (BitVec.ofNat 64 n)
  else
    let st := stridesIfLong S m sd n
    let md := mids P S m st.1 st.2.1 st.2.2
    let ab := tail m n
    finishDigest P v S ab.1 ab.2 md.1 (BitVec.ofNat 64 n)

/-- HINIT (43_hash.md R205). The secret is used as given (R212). -/
def execHinit (v : Variant) (s : State) : Result :=
  .next (s.construct s.arg0 s.argTable v).complete

/-- HINITD (43_hash.md R206), for a parameter set. -/
def hinitd (P : Params) (v : Variant) (s : State) : State :=
  (s.construct s.arg0 (P.of v).defaultSecret v).complete

/-- HINITD. -/
def execHinitd (v : Variant) (s : State) : Result := .next (hinitd Config.params v s)

/-- HABS (43_hash.md R207). A count above 8 is E_ILLEGAL (30_encoding.md R104, R106); no decoded HABS has one (log 13). -/
def habs (c : BitVec 4) (s : State) : State :=
  if 8 < c then s.raise .illegal
  else
    match s.hphase with
    | .none => s.raise .noctx
    | .final => s.raise .seq
    | .opened =>
      if 2 ^ 64 - 1 < s.hlen.toNat + c.toNat then s.raise .length
      else (s.append (packedBytes s.arg0 c.toNat)).complete

/-- HABS. -/
def execHabs (c : BitVec 4) (s : State) : Result := .next (habs c s)

/-- The digest of the context as it stands (43_hash.md R208). -/
def State.digestNow (P : Params) (s : State) : Word := digest P s.hvar s.hseed s.hsec s.hmsg

/-- HFIN (43_hash.md R208), for a parameter set. -/
def hfin (P : Params) (s : State) : State :=
  if s.hphase = .none then s.raise .noctx
  else { s with res0 := s.digestNow P, hphase := .final }.complete

/-- HFIN. -/
def execHfin (s : State) : Result := .next (hfin Config.params s)

end Sys2Proof.Machine
end

