-- ==== Sys2Proof/Machine/Prime.lean ====
section
/-! DEFINITION. The primality predicate of the goodness criterion (44_random.md R248). The predicate is `Nat.Prime`; a
shortcut answers first where it can, so that the criterion can be evaluated on 64-bit words, and
`Sys2Proof.Laws.isPrime_iff` proves that the whole is the predicate ("a model may use any correct decision procedure";
log 17). -/

namespace Sys2Proof.Machine

/-- `b ^ e % m` by repeated squaring; the first argument bounds the number of bits of e. -/
def powMod (m : Nat) : Nat → Nat → Nat → Nat
  | 0, _, _ => 1 % m
  | f + 1, b, e =>
    if e % 2 = 1 then b * powMod m f (b * b % m) (e / 2) % m else powMod m f (b * b % m) (e / 2)

/-- The primes that are tried as divisors, and as bases of the certificate. -/
def smallPrimes : List Nat :=
  [2, 3, 5, 7, 11, 13, 17, 19, 23, 29, 31, 37, 41, 43, 47, 53, 59, 61, 67, 71, 73, 79, 83, 89, 97, 101, 103, 107, 109,
    113, 127, 131, 137, 139, 149, 151, 157, 163, 167, 173, 179, 181, 191, 193, 197, 199, 211]

/-- A search for a proper divisor (Pollard's rho); 0 where it gives up. Only a hint: nothing rests on its answer. -/
def rhoSearch (n c : Nat) : Nat → Nat → Nat → Nat
  | 0, _, _ => 0
  | k + 1, x, y =>
    let x' := (x * x + c) % n
    let y' := (((y * y + c) % n) * ((y * y + c) % n) + c) % n
    let g := Nat.gcd (x' + n - y') n
    if g = 1 then rhoSearch n c k x' y' else if g < n then g else 0

/-- m without its factors q, and those factors; the first argument bounds their number. -/
def stripFactor (q : Nat) : Nat → Nat → List Nat × Nat
  | 0, m => ([], m)
  | k + 1, m => if m % q = 0 then let r := stripFactor q k (m / q); (q :: r.1, r.2) else ([], m)

/-- The factors of m that are small primes, and what is left of m. -/
def smallFactors : List Nat → Nat → List Nat × Nat
  | [], m => ([], m)
  | q :: qs, m =>
    let r := stripFactor q 64 m
    let t := smallFactors qs r.2
    (r.1 ++ t.1, t.2)

/-- A guess at the prime factors of an m without small ones. -/
def largeFactors : Nat → Nat → List Nat
  | 0, m => [m]
  | k + 1, m =>
    if m = 1 then []
    else if powMod m 64 2 (m - 1) = 1 then [m]
    else
      let d := rhoSearch m 1 (2 ^ 18) 2 2
      let d := if d = 0 then rhoSearch m 3 (2 ^ 18) 2 2 else d
      if d = 0 then [m] else largeFactors k d ++ largeFactors k (m / d)

/-- A guess at the list of the prime factors of m. -/
def guessFactors (m : Nat) : List Nat :=
  let r := smallFactors smallPrimes m
  r.1 ++ largeFactors 6 r.2

/-- Whether `a` shows that n is prime, given the prime factors qs of n - 1 (Lucas): a has order n - 1 modulo n. -/
def lucasWitness (n : Nat) (qs : List Nat) (a : Nat) : Bool :=
  powMod n 64 a (n - 1) == 1 && qs.all (fun q => powMod n 64 a ((n - 1) / q) != 1)

/-- A certificate that n is prime (Pratt): prime factors of n - 1 whose product is n - 1, and a Lucas witness. -/
def certified : Nat → Nat → Bool
  | 0, _ => false
  | k + 1, n =>
    smallPrimes.contains n ||
      let qs := guessFactors (n - 1)
      decide (3 < n) && decide (n < 2 ^ 64) && qs.prod == n - 1 && qs.all (certified k)
        && smallPrimes.any (lucasWitness n qs)

/-- The shortcut: a small factor, Fermat's test and the certificate, `none` where they do not decide. -/
def primeShortcut (n : Nat) : Option Bool :=
  if n < 2 then some false
  else
    match smallPrimes.find? (fun q => n % q == 0) with
    | some q => some (n == q)
    | none =>
      if powMod n 64 2 (n - 1) ≠ 1 then some false
      else if certified 64 n then some true
      else none

/-- `IsPrime(w)` (44_random.md R248): w has exactly two positive divisors. -/
def isPrime (w : Word) : Bool :=
  match primeShortcut w.toNat with
  | some b => b
  | none => decide (Nat.Prime w.toNat)

end Sys2Proof.Machine
end

