-- ==== Sys2Proof/Machine/Prng.lean ====
section
/-! DEFINITION. The PRNG engine (42_prng.md). -/

namespace Sys2Proof.Machine

/-- `Next(v, s)` (42_prng.md R172): the new state and the output. -/
def nextState (P : Params) (v : Variant) (x : Word) : Word × Word :=
  let x' := x + (P.of v).prngAdd
  (x', wymix x' (x' ^^^ (P.of v).prngXor))

/-- PSEED (42_prng.md R171). -/
def execPseed (v : Variant) (s : State) : Result :=
  .next { s with pstate := s.arg0, pvalid := true, pvar := v }.complete

/-- PNEXT (42_prng.md R173), for a parameter set. -/
def pnext (P : Params) (s : State) : State :=
  if s.pvalid then
    { s with pstate := (nextState P s.pvar s.pstate).1, res0 := (nextState P s.pvar s.pstate).2 }.complete
  else s.raise .noctx

/-- PNEXT. -/
def execPnext (s : State) : Result := .next (pnext Config.params s)

end Sys2Proof.Machine
end

