-- ==== Sys2Proof/Machine/Random.lean ====
section
/-! DEFINITION. The randomization pipeline (44_random.md): the entropy draw, the goodness criterion, GenerateSecret, the
secret cell, and the commands RSEED, RSECRET, SCHK, HINITRF and HINITRP. -/

namespace Sys2Proof.Machine

/-- What a command's random words come from: the private stream word `t` (44_random.md R245) and the answers ENTROPY has
given to the command that it has not used yet. -/
structure Supply where
  stream : Word
  answers : List Answer
deriving DecidableEq, Repr

/-- How far a part of a command's pseudocode has come that draws entropy: it has its result, it has raised an error, or
it waits (for an answer, 40_control.md R134, or for time to build candidates, 44_random.md R249). -/
inductive Draw (α : Type) where
  | got (a : α) (rest : Supply)
  | raised (e : Err)
  | waiting
deriving DecidableEq, Repr

/-- `GenerateSeed()` (44_random.md R240): one draw, read as `LE_8` (20_memory.md R87). -/
def generateSeed (g : Supply) : Draw Word :=
  match g.answers with
  | [] => .waiting
  | .fail :: _ => .raised .entropy
  | .ok e0 e1 e2 e3 e4 e5 e6 e7 :: rest => .got (leWord [e0, e1, e2, e3, e4, e5, e6, e7]) { g with answers := rest }

/-- The answer `OK(e[0], …, e[7])` whose bytes are read as the word w (20_memory.md R87). -/
def Answer.ofWord (w : Word) : Answer :=
  .ok (byteOf w 0) (byteOf w 1) (byteOf w 2) (byteOf w 3) (byteOf w 4) (byteOf w 5) (byteOf w 6) (byteOf w 7)

/-- `SECRET_BYTES` (44_random.md R242): every byte whose population count is in the band, ascending. -/
def secretBytes (P : Params) : List Byte :=
  ((List.range 256).map (BitVec.ofNat 8)).filter (fun b => P.bytePopBand.contains (popcount b))

/-- `SECRET_BYTES[r mod |SECRET_BYTES|]` (44_random.md R246). -/
def selectByte (bytes : List Byte) (r : Word) : Byte := bytes.getD (r.toNat % bytes.length) 0

/-- One random word of a candidate (44_random.md R246): from the private stream (SEEDED) or from a draw (DIRECT). -/
def randomWord (P : Params) (v : Variant) (g : Supply) : Draw Word :=
  match P.secretSrc with
  | .seeded => .got (nextState P v g.stream).2 { g with stream := (nextState P v g.stream).1 }
  | .direct => generateSeed g

/-- Bytes j, j+1, … of a candidate, k of them, added to the word w (44_random.md R246). -/
def candidateFrom (P : Params) (v : Variant) (bytes : List Byte) : Nat → Nat → Word → Supply → Draw Word
  | 0, _, w, g => .got w g
  | k + 1, j, w, g =>
    match randomWord P v g with
    | .got r g' => candidateFrom P v bytes k (j + 1) (w ||| ((selectByte bytes r).setWidth 64 <<< (8 * j))) g'
    | .raised e => .raised e
    | .waiting => .waiting

/-- `Candidate(v)` (44_random.md R246): eight bytes, the first random word giving byte 0. -/
def candidate (P : Params) (v : Variant) (bytes : List Byte) (g : Supply) : Draw Word :=
  candidateFrom P v bytes 8 0 0 g

/-- The words of n candidates built one after the other (44_random.md R245, R246). -/
def candidates (P : Params) (v : Variant) (bytes : List Byte) : Nat → Supply → Draw (List Word)
  | 0, g => .got [] g
  | n + 1, g =>
    match candidate P v bytes g with
    | .got w g' =>
      match candidates P v bytes n g' with
      | .got ws g'' => .got (w :: ws) g''
      | .raised e => .raised e
      | .waiting => .waiting
    | .raised e => .raised e
    | .waiting => .waiting

/-- `Accept(w, E)` (44_random.md R247). -/
def accept (P : Params) (w : Word) (E : List Word) : Bool :=
  (!P.requireOdd || w.getLsbD 0) && E.all (fun x => P.pairPopBand.contains (popcount (w ^^^ x)))
    && (!P.requirePrime || isPrime w)

/-- The words accepted so far with one more candidate (44_random.md R245). -/
def acceptInto (P : Params) (acc : List Word) (w : Word) : List Word := if accept P w acc then acc ++ [w] else acc

/-- Every byte of a word has its population count in the band (44_random.md R243, R247). -/
def bytesInBand (P : Params) (w : Word) : Bool :=
  (List.range 8).all fun j => P.bytePopBand.contains (popcount (byteOf w j))

/-- `Good` for the words of a table from some word on, E being the words before it (44_random.md R247). -/
def goodFrom (P : Params) : List Word → List Word → Bool
  | _, [] => true
  | E, w :: ws => bytesInBand P w && accept P w E && goodFrom P (E ++ [w]) ws

/-- `Good(S)` (44_random.md R247). -/
def good (P : Params) (S : Table) : Bool := goodFrom P [] (tableList S)

/-- Where the candidate loop ends before it builds another candidate: four words accepted, or the retry cap reached
(44_random.md R245, R249). -/
def secretEnd (P : Params) (count : Nat) (acc : List Word) (g : Supply) : Option (Draw Table) :=
  match acc with
  | [a, b, c, d] => some (.got ⟨a, b, c, d⟩ g)
  | _ => if P.retryCap = some count then some (.raised .retry) else none

/-- The candidate loop of `GenerateSecret(v)` (44_random.md R245): `acc` holds the words accepted so far, `count` the
candidates built. The first argument is how many more candidates CORE has had time to build: the loop itself has no
bound (R249), and where it has not ended the command goes on waiting (log 4). -/
def secretLoop (P : Params) (v : Variant) (bytes : List Byte) : Nat → Nat → List Word → Supply → Draw Table
  | 0, count, acc, g => (secretEnd P count acc g).getD .waiting
  | k + 1, count, acc, g =>
    match secretEnd P count acc g with
    | some d => d
    | none =>
      match candidate P v bytes g with
      | .got w g' => secretLoop P v bytes k (count + 1) (acceptInto P acc w) g'
      | .raised e => .raised e
      | .waiting => .waiting

/-- `GenerateSecret(v)` (44_random.md R245), with time for `effort` candidates. -/
def generateSecret (P : Params) (v : Variant) (effort : Nat) (g : Supply) : Draw Table :=
  match P.secretSrc with
  | .seeded =>
    match generateSeed g with
    | .got t g' => secretLoop P v (secretBytes P) effort 0 [] { g' with stream := t }
    | .raised e => .raised e
    | .waiting => .waiting
  | .direct => secretLoop P v (secretBytes P) effort 0 [] g

/-- `InitCell(v)` (44_random.md R250) up to the secret it returns; the write of the cell is its caller's. -/
def initCell (P : Params) (v : Variant) (effort : Nat) (c : Cell) (g : Supply) : Draw Table :=
  if c.valid then .got c.words g else generateSecret P v effort g

/-- The supply of the command in flight: its private stream word does not exist yet. -/
def State.supply (s : State) : Supply := ⟨0, s.answers⟩

/-- RSEED (44_random.md R251). -/
def rseed (s : State) : State :=
  match generateSeed s.supply with
  | .got r _ => { s with res0 := r }.complete
  | .raised e => s.raise e
  | .waiting => s.stall

/-- RSEED. -/
def execRseed (s : State) : Result := .next (rseed s)

/-- RSECRET (44_random.md R252), for a parameter set. -/
def rsecret (P : Params) (v : Variant) (s : State) : State :=
  match generateSecret P v s.effort s.supply with
  | .got S _ => (s.setResults S).complete
  | .raised e => s.raise e
  | .waiting => s.stall

/-- RSECRET. -/
def execRsecret (v : Variant) (s : State) : Result := .next (rsecret Config.params v s)

/-- SCHK (44_random.md R253), for a parameter set. -/
def schk (P : Params) (s : State) : State :=
  { s with res0 := if good P s.argTable then 1 else 0 }.complete

/-- SCHK. -/
def execSchk (s : State) : Result := .next (schk Config.params s)

/-- HINITRF (44_random.md R254), for a parameter set: the secret first, then the seed. -/
def hinitrf (P : Params) (v : Variant) (s : State) : State :=
  match generateSecret P v s.effort s.supply with
  | .got S g =>
    match generateSeed g with
    | .got seed _ => (s.construct seed S v).complete
    | .raised e => s.raise e
    | .waiting => s.stall
  | .raised e => s.raise e
  | .waiting => s.stall

/-- HINITRF. -/
def execHinitrf (v : Variant) (s : State) : Result := .next (hinitrf Config.params v s)

/-- HINITRP (44_random.md R255), for a parameter set: the cell's secret, generated on first use, then the seed. The cell
is committed once the secret is there, even where the seed draw then fails. -/
def hinitrp (P : Params) (v : Variant) (s : State) : State :=
  match initCell P v s.effort (s.cell v) s.supply with
  | .got S g =>
    match generateSeed g with
    | .got seed _ => ((s.setCell v ⟨true, S⟩).construct seed S v).complete
    | .raised e => (s.setCell v ⟨true, S⟩).raise e
    | .waiting => s.stall
  | .raised e => s.raise e
  | .waiting => s.stall

/-- HINITRP. -/
def execHinitrp (v : Variant) (s : State) : Result := .next (hinitrp Config.params v s)

end Sys2Proof.Machine
end

