-- ==== Sys2Proof/Machine/System.lean ====
section
/-! DEFINITION. The one system command (40_control.md R137). -/

namespace Sys2Proof.Machine

/-- NOP (40_control.md R137): it completes. -/
def execNop (s : State) : Result := .next s.complete

end Sys2Proof.Machine
end

