-- ==== Sys2Proof/Machine/Dispatch.lean ====
section
/-! DEFINITION. One arm per command of spec/opcode_table.json. -/

namespace Sys2Proof.Machine

def exec (i : Instr) (s : State) : Host.Outcome State Fault Refusal :=
  match i with
  | .nop => Sys2Proof.Machine.execNop s
  | .mum => Sys2Proof.Machine.execMum s
  | .mix => Sys2Proof.Machine.execMix s
  | .pseed v => Sys2Proof.Machine.execPseed v s
  | .pnext => Sys2Proof.Machine.execPnext s
  | .hinit v => Sys2Proof.Machine.execHinit v s
  | .hinitd v => Sys2Proof.Machine.execHinitd v s
  | .hinitrf v => Sys2Proof.Machine.execHinitrf v s
  | .hinitrp v => Sys2Proof.Machine.execHinitrp v s
  | .habs c => Sys2Proof.Machine.execHabs c s
  | .hfin => Sys2Proof.Machine.execHfin s
  | .rseed => Sys2Proof.Machine.execRseed s
  | .rsecret v => Sys2Proof.Machine.execRsecret v s
  | .schk => Sys2Proof.Machine.execSchk s

end Sys2Proof.Machine
end

