-- ==== Sys2Proof/Machine/Cycle.lean ====
section
/-! DEFINITION. CORE's turn (40_control.md R133) and the moves of the other agents, one function that `step` calls. -/

namespace Sys2Proof.Machine

/-- CORE's turn (40_control.md R133): with a command in flight it decodes `IR` and runs the command; an illegal word
completes with E_ILLEGAL (30_encoding.md R106). With none in flight it is idle and all state is retained
(60_exceptions.md R316). -/
def coreTurn (s : State) : Result :=
  if s.busy then
    match decode s.ir with
    | .ok i => exec i s
    | .error _ => .next (s.raise .illegal)
  else .next s

/-- A move from the list of moves, the list already without it (log 1). -/
def move (i : Input) (s : State) : Result :=
  match i with
  | .access a => hostStep a s
  | .wait => .next (waitPoll s)
  | .expectErr k => .next (expectErr k s)
  | .answer a => .next (takeAnswer a s)
  | .core => coreTurn s
  | .reset => .next s.resetBlock
  | .secondHost a => .refused (.secondHost a)

end Sys2Proof.Machine
end

