-- ==== Sys2Proof/Machine/Step.lean ====
section
/-! DEFINITION. One step: the next move of the list of moves, or CORE's turn where the list is used up (log 1). -/

namespace Sys2Proof.Machine

/-- One step of one agent (20_memory.md R84: every execution is an interleaving of HOST accesses and CORE completion
steps). -/
def step (s : State) : Host.Outcome State Fault Refusal :=
  match s.inputs with
  | [] => coreTurn s
  | i :: rest => move i { s with inputs := rest }

/-- The state in which the very next step is CORE's completion step of the command with table bits `w` (log 2): the word
latched in `IR`, `BUSY` set, CORE to move. WYCORE fetches no instruction (20_memory.md R89); this stands for HOST's
accepted write to `CMD`. -/
def State.withFetchWord (s : State) (nbits w : Nat) : State := s.fetchNext (tableWord nbits w)

end Sys2Proof.Machine
end

