-- ==== Sys2Proof/Machine/Window.lean ====
section
/-! DEFINITION. The bounded window of 43_hash.md R210: what an implementation may keep in place of the whole message.
The machine does not use it; a statement says that it agrees with `digest` (R211). -/

namespace Sys2Proof.Machine

/-- The window: three lanes, the stride flag T, the pending bytes, and the last 16 bytes of the last stride. -/
structure Window where
  lanes : Lanes
  strided : Bool
  buf : List Byte
  hist : List Byte
deriving DecidableEq, Repr

/-- The window on construction (43_hash.md R210). -/
def windowStart (P : Params) (v : Variant) (seed : Word) (S : Table) : Window :=
  let sd := premix P v seed S
  ⟨⟨sd, 0, 0⟩, false, [], []⟩

/-- The window after one more absorbed byte (43_hash.md R210): a stride is taken once 49 bytes are pending. -/
def windowAbsorb (S : Table) (w : Window) (x : Byte) : Window :=
  let buf := w.buf ++ [x]
  if buf.length = 49 then
    let l := if w.strided then w.lanes else ⟨w.lanes.sd, w.lanes.sd, w.lanes.sd⟩
    ⟨stride S buf 0 l, true, (buf.drop 48).take 1, (buf.drop 32).take 16⟩
  else { w with buf := buf }

/-- The digest the window gives for a message of n bytes (43_hash.md R210). -/
def windowFinish (P : Params) (v : Variant) (S : Table) (w : Window) (n : Nat) : Word :=
  if n ≤ 16 then
    let ab := small w.buf n
    finishDigest P v S ab.1 ab.2 w.lanes.sd (BitVec.ofNat 64 n)
  else
    let sd := if w.strided then w.lanes.fold else w.lanes.sd
    let kept := w.hist ++ w.buf
    let md := mids P S kept sd w.hist.length w.buf.length
    finishDigest P v S (read8 kept (kept.length - 16)) (read8 kept (kept.length - 8)) md.1 (BitVec.ofNat 64 n)

/-- The digest of a message by the window. -/
def windowDigest (P : Params) (v : Variant) (seed : Word) (S : Table) (m : List Byte) : Word :=
  windowFinish P v S (m.foldl (windowAbsorb S) (windowStart P v seed S)) m.length

end Sys2Proof.Machine
end

