-- ==== Sys2Proof/Safety.lean ====
section
/-! DEFINITION. What counts as a safe run, in the terms the statements use: the invariant of the state, the moves that
never fault or stop the machine, and when a command in flight completes. -/

namespace Sys2Proof

/-- The commands that draw entropy (40_control.md R134). -/
def Instr.drawsEntropy : Instr → Bool
  | .rseed | .rsecret _ | .hinitrf _ | .hinitrp _ => true
  | .nop | .mum | .mix | .pseed _ | .pnext | .hinit _ | .hinitd _ | .habs _ | .hfin | .schk => false

end Sys2Proof

namespace Sys2Proof.Machine

/-- The invariant of WYCORE's state. -/
structure State.Inv (s : State) : Prop where
  /-- `HLEN` = |`HMSG`| (10_state.md R47). -/
  message : Memory.wf s
  /-- With no command in flight there is no answer waiting for one, and no time spent on one (log 4, log 5). -/
  idle : s.busy = false → s.answers = [] ∧ s.effort = 0
  /-- A valid secret cell holds a good table (44_random.md R250, R258). -/
  validCell : ∀ v, (s.cell v).valid = true → good Config.params (s.cell v).words = true
  /-- A cell that is not valid still holds its reset value (10_state.md R50, R56). -/
  emptyCell : ∀ v, (s.cell v).valid = false → (s.cell v).words = zeroTable
  /-- An unseeded generator still holds its reset value (10_state.md R41, R56). -/
  unseeded : s.pvalid = false → s.pstate = 0 ∧ s.pvar = .legacy
  /-- In phase NONE no context has been constructed since reset (10_state.md R43, R56). -/
  noContext : s.hphase = .none → s.hseed = 0 ∧ s.hsec = zeroTable ∧ s.hvar = .legacy ∧ s.hmsg = [] ∧ s.hlen = 0

/-- A move that is not an access of a second HOST (60_exceptions.md R314): the only one that stops the machine. -/
def Input.oneHost : Input → Bool
  | .secondHost _ => false
  | .access _ | .wait | .expectErr _ | .answer _ | .core | .reset => true

/-- No move to come is a second HOST's. -/
def State.oneHost (s : State) : Bool := s.inputs.all Input.oneHost

/-- A move without a fault: HOST's accesses are legal (20_memory.md R72, R73) and there is one HOST
(60_exceptions.md R314). -/
def Input.clean : Input → Bool
  | .access a => a.legal
  | .secondHost _ => false
  | .wait | .expectErr _ | .answer _ | .core | .reset => true

/-- No move to come faults or stops the machine. -/
def State.clean (s : State) : Bool := s.inputs.all Input.clean

/-- The command completed with this code: an answer of a command's meaning that is no longer in flight. -/
def State.completedWith (t : State) (e : Err) : Bool := !t.busy && t.err == e

/-- k runs of PNEXT on a state (42_prng.md R174). -/
def pnextTimes (P : Params) : Nat → State → State
  | 0, s => s
  | k + 1, s => pnext P (pnextTimes P k s)

/-- HOST's absorption of a message in chunks: for each operand word and count, the operand is written and HABS runs
(43_hash.md R207, R209). -/
def absorbAll : List (Word × BitVec 4) → State → State
  | [], s => s
  | (x, c) :: rest, s => absorbAll rest (habs c { s with arg0 := x })

/-- The bytes that chunks carry, in order (20_memory.md R81). -/
def chunkBytes : List (Word × BitVec 4) → List Byte
  | [] => []
  | (x, c) :: rest => packedBytes x c.toNat ++ chunkBytes rest

end Sys2Proof.Machine
end

