-- ==== Sys2Proof/Certificates/Slice0/Obligations.lean ====
section
/-! DEFINITION. The statements about WYCORE, each from the rules of spec/ that its docstring cites. In every statement the
model's own bookkeeping at completion (the answers and the time of the command in flight are dropped) stands inside
`State.complete` and `State.raise`, which `CompletionWritesStatus` writes out. -/

open Sys2Proof Sys2Proof.Machine

/-! ### The command word -/

/-- Every command with a legal word decodes back from its word (30_encoding.md R101, R108, R109). -/
def Obligations.DecodeOfEncode : Prop :=
  ∀ i : Instr, i.wellFormed = true → decode (encode i) = .ok i

/-- A word that decodes is the word of the command it decodes to, so no two words are one command
(30_encoding.md R101, R108, R109). -/
def Obligations.EncodeOfDecode : Prop :=
  ∀ (w : Word) (i : Instr), decode w = .ok i → encode i = w ∧ i.wellFormed = true

/-- 30_encoding.md R108: which words are legal, and that a legal word gives its own fields. -/
def Obligations.LegalWordCondition : Prop :=
  ∀ w : Word,
    ((∃ i, decode w = .ok i) ↔
      (w.extractLsb' 12 52 = 0 ∧ w.getLsbD 7 = false ∧
        (w.extractLsb' 0 6).toNat ∈
          [0x00, 0x01, 0x02, 0x08, 0x09, 0x10, 0x11, 0x12, 0x13, 0x14, 0x15, 0x18, 0x19, 0x1A] ∧
        (w.getLsbD 6 = false ∨ (w.extractLsb' 0 6).toNat ∈ [0x08, 0x10, 0x11, 0x12, 0x13, 0x19]) ∧
        (if (w.extractLsb' 0 6).toNat ≠ 0x14 then w.extractLsb' 8 4 = 0 else (w.extractLsb' 8 4).toNat ≤ 8))) ∧
    ∀ i, decode w = .ok i → i.op.code = w.extractLsb' 0 6 ∧ i.vBit = w.getLsbD 6 ∧ i.cnt = w.extractLsb' 8 4

/-- 30_encoding.md R110: the 28 legal words, each with its command, and no others. -/
def Obligations.TwentyEightLegalWords : Prop :=
  ∀ (w : Word) (i : Instr), decode w = .ok i ↔
    (w, i) ∈
      [((0x00000000 : Word), Instr.nop), (0x00000001, .mum), (0x00000002, .mix),
        (0x00000008, .pseed .legacy), (0x00000048, .pseed .current), (0x00000009, .pnext),
        (0x00000010, .hinit .legacy), (0x00000050, .hinit .current),
        (0x00000011, .hinitd .legacy), (0x00000051, .hinitd .current),
        (0x00000012, .hinitrf .legacy), (0x00000052, .hinitrf .current),
        (0x00000013, .hinitrp .legacy), (0x00000053, .hinitrp .current),
        (0x00000014, .habs 0), (0x00000114, .habs 1), (0x00000214, .habs 2), (0x00000314, .habs 3),
        (0x00000414, .habs 4), (0x00000514, .habs 5), (0x00000614, .habs 6), (0x00000714, .habs 7),
        (0x00000814, .habs 8), (0x00000015, .hfin), (0x00000018, .rseed),
        (0x00000019, .rsecret .legacy), (0x00000059, .rsecret .current), (0x0000001A, .schk)]

/-- A word of each family, written out from the fields of 30_encoding.md R101 and R102 as bits 63:32, 31:12, 11:8, 7, 6
and 5:0, decodes to its command. A sanity check. -/
def Obligations.FamilyWordsDecode : Prop :=
  decode (0#32 ++ 0#20 ++ 0#4 ++ 0#1 ++ 0#1 ++ 0b000000#6) = .ok .nop ∧
    decode (0#32 ++ 0#20 ++ 0#4 ++ 0#1 ++ 0#1 ++ 0b000001#6) = .ok .mum ∧
    decode (0#32 ++ 0#20 ++ 0#4 ++ 0#1 ++ 1#1 ++ 0b001000#6) = .ok (.pseed .current) ∧
    decode (0#32 ++ 0#20 ++ 0b0111#4 ++ 0#1 ++ 0#1 ++ 0b010100#6) = .ok (.habs 7) ∧
    decode (0#32 ++ 0#20 ++ 0#4 ++ 0#1 ++ 1#1 ++ 0b011001#6) = .ok (.rsecret .current)

/-! ### The command cycle -/

/-- 40_control.md R133: with a command in flight, CORE's turn (the list of moves used up, or CORE next in it) decodes `IR`
and runs the command. The list of moves is the model's (log 1), and so is the state in which the command of a given word is
the very next to run (log 2). -/
def Obligations.StepRunsDecodedCommand : Prop :=
  (∀ (s : State) (i : Instr), s.busy = true → decode s.ir = .ok i →
    (s.inputs = [] → step s = exec i s) ∧
      ∀ rest, s.inputs = .core :: rest → step s = exec i { s with inputs := rest }) ∧
  ∀ (s : State) (i : Instr), i.wellFormed = true →
    step (s.withFetchWord 64 (encode i).toNat) = exec i { s with ir := encode i, busy := true }

/-- 40_control.md R133, 10_state.md R38: what completion itself writes. The last two fields are the model's own. -/
def Obligations.CompletionWritesStatus : Prop :=
  ∀ (s : State) (e : Err), s.raise e =
      { s with err := e, lastop := s.ir.extractLsb' 0 6, busy := false, answers := [], effort := 0 } ∧
    s.complete = s.raise .success

/-- 30_encoding.md R106: an illegal word in flight completes with E_ILLEGAL and changes nothing but STATUS (`answers` and
`effort` are no state of WYCORE). -/
def Obligations.IllegalWordCompletesWithIllegal : Prop :=
  ∀ s : State, s.busy = true →
    (s.ir.extractLsb' 12 52 ≠ 0 ∨ s.ir.getLsbD 7 = true ∨
      (s.ir.extractLsb' 0 6).toNat ∉
        [0x00, 0x01, 0x02, 0x08, 0x09, 0x10, 0x11, 0x12, 0x13, 0x14, 0x15, 0x18, 0x19, 0x1A] ∨
      (s.ir.getLsbD 6 = true ∧ (s.ir.extractLsb' 0 6).toNat ∉ [0x08, 0x10, 0x11, 0x12, 0x13, 0x19]) ∨
      (s.ir.extractLsb' 8 4 ≠ 0 ∧ (s.ir.extractLsb' 0 6).toNat ≠ 0x14) ∨
      (8 < (s.ir.extractLsb' 8 4).toNat ∧ (s.ir.extractLsb' 0 6).toNat = 0x14)) →
    ∃ t, coreTurn s = .next t ∧
      t = { s with err := .illegal, lastop := s.ir.extractLsb' 0 6, busy := false, answers := t.answers,
                   effort := t.effort }

/-- 60_exceptions.md R302: a command word, legal or not, that completes with an error writes `STATUS` and changes nothing
else, but for the cell that HINITRP committed before its seed draw failed (44_random.md R255). `answers` and `effort` are no
state of WYCORE. -/
def Obligations.ErrorChangesOnlyStatus : Prop :=
  ∀ s t : State, s.busy = true → coreTurn s = .next t → t.busy = false → t.err ≠ .success →
    t = { s with err := t.err, lastop := s.ir.extractLsb' 0 6, busy := false, answers := t.answers,
                 effort := t.effort } ∨
      ∃ v S g, decode s.ir = .ok (.hinitrp v) ∧
        initCell Config.params v s.effort (s.cell v) s.supply = .got S g ∧ generateSeed g = .raised .entropy ∧
        t = { s.setCell v ⟨true, S⟩ with
              err := .entropy, lastop := s.ir.extractLsb' 0 6, busy := false, answers := t.answers,
              effort := t.effort }

/-- 10_state.md R38, 70_reset_and_hazards.md R361: every CORE turn on a command in flight either completes it, with `LASTOP`
from `IR` and `OVR` as it was, or leaves it in flight with nothing architectural changed (the time it has had is the model's
own, log 4); and a command that draws no entropy always completes. -/
def Obligations.TurnCompletesOrWaits : Prop :=
  ∀ s : State, s.busy = true → ∃ t, coreTurn s = .next t ∧
    ((t.busy = false ∧ t.lastop = s.ir.extractLsb' 0 6 ∧ t.ovr = s.ovr) ∨ t = { s with effort := 2 * s.effort + 1 }) ∧
    ∀ i, decode s.ir = .ok i → i.drawsEntropy = false → t.busy = false

/-- 70_reset_and_hazards.md R347: with no answer and no other move, RSEED stays in flight for ever, and nothing
architectural changes. -/
def Obligations.UnansweredSeedStaysInFlight : Prop :=
  ∀ (s : State) (k : Nat), s.busy = true → s.inputs = [] → s.ir = 0x18 → s.answers = [] →
    ∃ m, Sys2Proof.core.run k s = .next ({ s with effort := m } : State)

/-- 30_encoding.md R112, R113: `EXEC <command>` from an idle block, for a command that draws no entropy: the write to `CMD`,
a poll, CORE's turn and the last poll leave what the command's own effect leaves, and HOST goes on with its next line. -/
def Obligations.ExecLineRunsCommand : Prop :=
  ∀ (s : State) (i : Instr) (rest : List Input), s.busy = false → i.wellFormed = true → i.drawsEntropy = false →
    s.inputs = lineExec i ++ rest →
    ∃ t : State, exec i { s with ir := encode i, busy := true, inputs := .wait :: rest } = .next t ∧
      Sys2Proof.core.run 4 s = .next ({ t with inputs := rest } : State)

/-- 10_state.md R36: issue sets `BUSY`, and it changes only at issue, at CORE's turn on the command in flight, and at
reset. The list of moves is the model's (log 1). -/
def Obligations.BusyChangesOnlyAtIssueAndCompletion : Prop :=
  ∀ s t : State, step s = .next t →
    (∀ w rest, s.inputs = .access (.write 64 0x00 w) :: rest → t.busy = true) ∧
    (t.busy ≠ s.busy →
      (s.busy = false ∧ ∃ w rest, s.inputs = .access (.write 64 0x00 w) :: rest ∧ t.ir = w) ∨
        (s.busy = true ∧ (s.inputs = [] ∨ ∃ rest, s.inputs = .core :: rest)) ∨ ∃ rest, s.inputs = .reset :: rest)

/-- 10_state.md R37: what sets and what clears `OVR`, and that nothing else changes it. The list of moves is the model's
(log 1). -/
def Obligations.OverrunSetAndCleared : Prop :=
  ∀ s t : State, step s = .next t →
    ((s.busy = true ∧ ∃ off x rest, s.inputs = .access (.write 64 off x) :: rest ∧
        off ∈ [0x00, 0x10, 0x18, 0x20, 0x28, 0x30]) → t.ovr = true) ∧
    (((∃ x rest, s.inputs = .access (.write 64 0x08 x) :: rest ∧ x.getLsbD 1 = true) ∨
        ∃ rest, s.inputs = .reset :: rest) → t.ovr = false) ∧
    ((¬ (s.busy = true ∧ ∃ off x rest, s.inputs = .access (.write 64 off x) :: rest ∧
        off ∈ [0x00, 0x10, 0x18, 0x20, 0x28, 0x30]) ∧
      ¬ ((∃ x rest, s.inputs = .access (.write 64 0x08 x) :: rest ∧ x.getLsbD 1 = true) ∨
        ∃ rest, s.inputs = .reset :: rest)) → t.ovr = s.ovr)

/-! ### The results of the commands -/

/-- 40_control.md R137: NOP completes. -/
def Obligations.NopCompletes : Prop :=
  ∀ s : State, exec .nop s = .next { s with err := .success, lastop := s.ir.extractLsb' 0 6, busy := false,
                                            answers := [], effort := 0 }

/-- 41_mixer.md R153: MUM writes the low and the high half of the exact product. -/
def Obligations.MumWritesProductHalves : Prop :=
  ∀ s : State, exec .mum s = .next
    { s with res0 := BitVec.ofNat 64 (s.arg0.toNat * s.arg1.toNat)
             res1 := BitVec.ofNat 64 (s.arg0.toNat * s.arg1.toNat / 2 ^ 64) }.complete

/-- 41_mixer.md R154: MIX writes the exclusive or of the halves of the exact product. -/
def Obligations.MixWritesFoldedProduct : Prop :=
  ∀ s : State, exec .mix s = .next
    { s with res0 := BitVec.ofNat 64 (s.arg0.toNat * s.arg1.toNat)
                       ^^^ BitVec.ofNat 64 (s.arg0.toNat * s.arg1.toNat / 2 ^ 64) }.complete

/-- 42_prng.md R171: PSEED writes the generator, with no mixing of the seed. -/
def Obligations.PseedConstructsGenerator : Prop :=
  ∀ (v : Variant) (s : State), exec (.pseed v) s = .next
    { s with pstate := s.arg0, pvalid := true, pvar := v }.complete

/-- 42_prng.md R173: PNEXT advances a seeded generator by the variant's constant and writes the mixed output; an unseeded
one gives E_NOCTX. -/
def Obligations.PnextAdvances : Prop :=
  ∀ s : State,
    (s.pvalid = true →
      exec .pnext s = .next
        { s with pstate := s.pstate + (Config.params.of s.pvar).prngAdd
                 res0 := wymix (s.pstate + (Config.params.of s.pvar).prngAdd)
                   ((s.pstate + (Config.params.of s.pvar).prngAdd) ^^^ (Config.params.of s.pvar).prngXor) }.complete) ∧
    (s.pvalid = false → exec .pnext s = .next (s.raise .noctx))

/-- 43_hash.md R205: HINIT constructs a context from the operands, in any phase, without checking the secret. -/
def Obligations.HinitConstructsContext : Prop :=
  ∀ (v : Variant) (s : State), exec (.hinit v) s = .next
    { s with hseed := s.arg0, hsec := ⟨s.arg1, s.arg2, s.arg3, s.arg4⟩, hvar := v, hmsg := [], hlen := 0,
             hphase := .opened }.complete

/-- 43_hash.md R206: HINITD constructs a context with the variant's default secret. -/
def Obligations.HinitdConstructsContext : Prop :=
  ∀ (v : Variant) (s : State), exec (.hinitd v) s = .next
    { s with hseed := s.arg0, hsec := (Config.params.of v).defaultSecret, hvar := v, hmsg := [], hlen := 0,
             hphase := .opened }.complete

/-- 43_hash.md R207: HABS and its errors in their order. A count above 8 is illegal (30_encoding.md R104). -/
def Obligations.HabsAppendsOrRaises : Prop :=
  ∀ (c : BitVec 4) (s : State),
    (8 < c.toNat → exec (.habs c) s = .next (s.raise .illegal)) ∧
    (c.toNat ≤ 8 → s.hphase = .none → exec (.habs c) s = .next (s.raise .noctx)) ∧
    (c.toNat ≤ 8 → s.hphase = .final → exec (.habs c) s = .next (s.raise .seq)) ∧
    (c.toNat ≤ 8 → s.hphase = .opened → 2 ^ 64 - 1 < s.hlen.toNat + c.toNat →
      exec (.habs c) s = .next (s.raise .length)) ∧
    (c.toNat ≤ 8 → s.hphase = .opened → s.hlen.toNat + c.toNat ≤ 2 ^ 64 - 1 →
      exec (.habs c) s = .next
        { s with hmsg := s.hmsg ++ (List.range c.toNat).map (fun j => (s.arg0 >>> (8 * j)).setWidth 8)
                 hlen := BitVec.ofNat 64 (s.hlen.toNat + c.toNat) }.complete)

/-- 43_hash.md R208: HFIN writes the digest of the context and enters FINAL; without a context it gives E_NOCTX; and HFIN
again gives the same digest. -/
def Obligations.HfinWritesDigest : Prop :=
  ∀ s : State,
    (s.hphase ≠ .none → exec .hfin s = .next
      { s with res0 := digest Config.params s.hvar s.hseed s.hsec s.hmsg, hphase := .final }.complete) ∧
    (s.hphase = .none → exec .hfin s = .next (s.raise .noctx)) ∧
    ∀ t u : State, s.hphase ≠ .none → exec .hfin s = .next t → exec .hfin t = .next u →
      u.res0 = t.res0 ∧ u.hphase = .final

/-- 44_random.md R251 (20_memory.md R87): RSEED writes the drawn word, raises E_ENTROPY on FAIL, and stays in flight
without an answer. -/
def Obligations.RseedWritesDrawnWord : Prop :=
  ∀ s : State,
    (∀ e0 e1 e2 e3 e4 e5 e6 e7 rest, s.answers = .ok e0 e1 e2 e3 e4 e5 e6 e7 :: rest →
      exec .rseed s = .next { s with res0 := e7 ++ e6 ++ e5 ++ e4 ++ e3 ++ e2 ++ e1 ++ e0 }.complete) ∧
    (∀ rest, s.answers = .fail :: rest → exec .rseed s = .next (s.raise .entropy)) ∧
    (s.answers = [] → exec .rseed s = .next { s with effort := 2 * s.effort + 1 })

/-- 44_random.md R252, 40_control.md R134: RSECRET writes the generated table, or raises what GenerateSecret raises; where
GenerateSecret waits, and so while the draw is unanswered, the command stays in flight and only the time it has had, which
is the model's own, changes (log 4). -/
def Obligations.RsecretWritesTable : Prop :=
  ∀ (v : Variant) (s : State),
    (∀ S g, generateSecret Config.params v s.effort ⟨0, s.answers⟩ = .got S g →
      exec (.rsecret v) s = .next { s with res0 := S.w0, res1 := S.w1, res2 := S.w2, res3 := S.w3 }.complete) ∧
    (∀ e, generateSecret Config.params v s.effort ⟨0, s.answers⟩ = .raised e →
      exec (.rsecret v) s = .next (s.raise e)) ∧
    ((generateSecret Config.params v s.effort ⟨0, s.answers⟩ = .waiting ∨ s.answers = []) →
      exec (.rsecret v) s = .next { s with effort := 2 * s.effort + 1 })

/-- 44_random.md R253, R247: SCHK writes whether the operand table is good, word by word. -/
def Obligations.SchkReportsGoodness : Prop :=
  ∀ s : State, ∃ r : Word, exec .schk s = .next { s with res0 := r }.complete ∧ (r = 0 ∨ r = 1) ∧
    (r = 1 ↔ ∀ i : Fin 4,
      (∀ j < 8, popcount ((tableGet s.argTable i).extractLsb' (8 * j) 8) ∈ Config.params.bytePopBand) ∧
      (Config.params.requireOdd = true → (tableGet s.argTable i).getLsbD 0 = true) ∧
      (∀ k < i, popcount (tableGet s.argTable i ^^^ tableGet s.argTable k) ∈ Config.params.pairPopBand) ∧
      (Config.params.requirePrime = true → (tableGet s.argTable i).toNat.Prime))

/-- 44_random.md R254, 40_control.md R134: HINITRF generates the secret, then draws the seed, and constructs; on an error of
either the context is unchanged; where either waits the command stays in flight and only the time it has had, which is the
model's own, changes (log 4). -/
def Obligations.HinitrfConstructsContext : Prop :=
  ∀ (v : Variant) (s : State),
    (∀ S g, generateSecret Config.params v s.effort ⟨0, s.answers⟩ = .got S g →
      (∀ seed g', generateSeed g = .got seed g' → exec (.hinitrf v) s = .next
        { s with hseed := seed, hsec := S, hvar := v, hmsg := [], hlen := 0, hphase := .opened }.complete) ∧
      (∀ e, generateSeed g = .raised e → exec (.hinitrf v) s = .next (s.raise e)) ∧
      (g.answers = [] → exec (.hinitrf v) s = .next { s with effort := 2 * s.effort + 1 })) ∧
    (∀ e, generateSecret Config.params v s.effort ⟨0, s.answers⟩ = .raised e →
      exec (.hinitrf v) s = .next (s.raise e)) ∧
    ((generateSecret Config.params v s.effort ⟨0, s.answers⟩ = .waiting ∨ s.answers = []) →
      exec (.hinitrf v) s = .next { s with effort := 2 * s.effort + 1 })

/-- 44_random.md R255, R250, 40_control.md R133, R134: HINITRP on a set cell makes one draw, for the seed, and keeps the
cell; on an empty cell it generates the secret and commits the cell, even where the seed draw then fails; where the
generation fails nothing is committed. Where the generation or the seed draw waits the command stays in flight, nothing is
committed, and only the time it has had, which is the model's own, changes (log 4). -/
def Obligations.HinitrpConstructsContext : Prop :=
  ∀ (v : Variant) (s : State),
    ((s.cell v).valid = true →
      (∀ seed g, generateSeed ⟨0, s.answers⟩ = .got seed g → exec (.hinitrp v) s = .next
        { s with hseed := seed, hsec := (s.cell v).words, hvar := v, hmsg := [], hlen := 0,
                 hphase := .opened }.complete) ∧
      (∀ e, generateSeed ⟨0, s.answers⟩ = .raised e → exec (.hinitrp v) s = .next (s.raise e))) ∧
    ((s.cell v).valid = false →
      (∀ S g, generateSecret Config.params v s.effort ⟨0, s.answers⟩ = .got S g →
        (∀ seed g', generateSeed g = .got seed g' → exec (.hinitrp v) s = .next
          { s.setCell v ⟨true, S⟩ with
            hseed := seed, hsec := S, hvar := v, hmsg := [], hlen := 0, hphase := .opened }.complete) ∧
        (∀ e, generateSeed g = .raised e → exec (.hinitrp v) s = .next ((s.setCell v ⟨true, S⟩).raise e)) ∧
        (g.answers = [] → exec (.hinitrp v) s = .next { s with effort := 2 * s.effort + 1 })) ∧
      (∀ e, generateSecret Config.params v s.effort ⟨0, s.answers⟩ = .raised e →
        exec (.hinitrp v) s = .next (s.raise e)) ∧
      (generateSecret Config.params v s.effort ⟨0, s.answers⟩ = .waiting →
        exec (.hinitrp v) s = .next { s with effort := 2 * s.effort + 1 })) ∧
    (s.answers = [] → exec (.hinitrp v) s = .next { s with effort := 2 * s.effort + 1 })

/-! ### Frames -/

/-- What the commands that only write result registers leave alone (30_encoding.md R105; 44_random.md R257): everything
but `STATUS`, the result registers their row names and the model's own answers and time. -/
def Obligations.ResultCommandsFrame : Prop :=
  ∀ s t : State,
    (exec .nop s = .next t →
      t = { s with err := t.err, lastop := t.lastop, busy := t.busy, answers := t.answers, effort := t.effort }) ∧
    (exec .mum s = .next t →
      t = { s with res0 := t.res0, res1 := t.res1, err := t.err, lastop := t.lastop, busy := t.busy,
                   answers := t.answers, effort := t.effort }) ∧
    ((exec .mix s = .next t ∨ exec .schk s = .next t ∨ exec .rseed s = .next t) →
      t = { s with res0 := t.res0, err := t.err, lastop := t.lastop, busy := t.busy,
                   answers := t.answers, effort := t.effort }) ∧
    ∀ v, exec (.rsecret v) s = .next t →
      t = { s with res0 := t.res0, res1 := t.res1, res2 := t.res2, res3 := t.res3, err := t.err,
                   lastop := t.lastop, busy := t.busy, answers := t.answers, effort := t.effort }

/-- What the generator's commands leave alone (30_encoding.md R105; 10_state.md R40): PSEED writes the generator, PNEXT
its state word and RES0. -/
def Obligations.GeneratorCommandsFrame : Prop :=
  ∀ s t : State,
    (∀ v, exec (.pseed v) s = .next t →
      t = { s with pstate := t.pstate, pvalid := t.pvalid, pvar := t.pvar, err := t.err, lastop := t.lastop,
                   busy := t.busy, answers := t.answers, effort := t.effort }) ∧
    (exec .pnext s = .next t →
      t = { s with pstate := t.pstate, res0 := t.res0, err := t.err, lastop := t.lastop,
                   busy := t.busy, answers := t.answers, effort := t.effort })

/-- What the hash commands leave alone (30_encoding.md R105; 43_hash.md R213): a construction writes the context (HINITRP
also its own cell), HABS appends to the message, HFIN writes RES0 and the phase. The bytes of the message already absorbed
stay as they were under HABS and HFIN. -/
def Obligations.HashCommandsFrame : Prop :=
  ∀ (s t : State) (v : Variant),
    ((exec (.hinit v) s = .next t ∨ exec (.hinitd v) s = .next t ∨ exec (.hinitrf v) s = .next t) →
      t = { s with hseed := t.hseed, hsec := t.hsec, hvar := t.hvar, hphase := t.hphase, hmsg := t.hmsg,
                   hlen := t.hlen, err := t.err, lastop := t.lastop, busy := t.busy, answers := t.answers,
                   effort := t.effort }) ∧
    (exec (.hinitrp v) s = .next t →
      t = { s.setCell v (t.cell v) with
            hseed := t.hseed, hsec := t.hsec, hvar := t.hvar, hphase := t.hphase, hmsg := t.hmsg,
            hlen := t.hlen, err := t.err, lastop := t.lastop, busy := t.busy, answers := t.answers,
            effort := t.effort }) ∧
    (∀ c, exec (.habs c) s = .next t →
      t = { s with hmsg := t.hmsg, hlen := t.hlen, err := t.err, lastop := t.lastop, busy := t.busy,
                   answers := t.answers, effort := t.effort } ∧
      (∀ k < s.hmsg.length, t.hmsg[k]? = s.hmsg[k]?) ∧
      (∀ k, s.hmsg.length + c.toNat ≤ k → t.hmsg[k]? = none)) ∧
    (exec .hfin s = .next t →
      t = { s with res0 := t.res0, hphase := t.hphase, err := t.err, lastop := t.lastop, busy := t.busy,
                   answers := t.answers, effort := t.effort })

/-- 10_state.md R31, R39, R40 and R44, 43_hash.md R213, 44_random.md R257, of four kinds of state: no command writes an
operand; only PSEED and PNEXT write the generator's word, and only PSEED its valid bit and variant; PSEED and PNEXT write no
secret cell; only constructions write HSEED, the secret table and HVAR. The cells under every command are
`CellWrittenOnlyWhileEmpty`'s, and the phase, length and message of the context `HashCommandsFrame`'s. -/
def Obligations.StateWrittenOnlyByItsCommands : Prop :=
  ∀ (i : Instr) (s t : State), exec i s = .next t →
    (t.arg0 = s.arg0 ∧ t.arg1 = s.arg1 ∧ t.arg2 = s.arg2 ∧ t.arg3 = s.arg3 ∧ t.arg4 = s.arg4) ∧
    ((∀ v, i ≠ .pseed v) → t.pvalid = s.pvalid ∧ t.pvar = s.pvar ∧ (i ≠ .pnext → t.pstate = s.pstate)) ∧
    ((i = .pnext ∨ ∃ v, i = .pseed v) → t.cell0 = s.cell0 ∧ t.cell1 = s.cell1) ∧
    ((∀ v, i ≠ .hinit v ∧ i ≠ .hinitd v ∧ i ≠ .hinitrf v ∧ i ≠ .hinitrp v) →
      t.hseed = s.hseed ∧ t.hsec = s.hsec ∧ t.hvar = s.hvar)

/-- 10_state.md R50: a cell is written only by HINITRP of its own variant, and only while it is not valid. -/
def Obligations.CellWrittenOnlyWhileEmpty : Prop :=
  ∀ (i : Instr) (s t : State) (u : Variant), exec i s = .next t → t.cell u ≠ s.cell u →
    i = .hinitrp u ∧ (s.cell u).valid = false ∧ (t.cell u).valid = true

/-- 10_state.md R51: once a cell is valid, no step but a reset changes it. The list of moves is the model's (log 1). -/
def Obligations.ValidCellStaysUntilReset : Prop :=
  ∀ (s t : State) (u : Variant), step s = .next t → (s.cell u).valid = true →
    (∀ rest, s.inputs ≠ .reset :: rest) → t.cell u = s.cell u

/-! ### The register window -/

/-- 40_control.md R130, R131, R132 and R138: the writes HOST may make, idle and busy. -/
def Obligations.BusWriteEffects : Prop :=
  ∀ (s : State) (x : Word),
    hostAccess (.write 64 0x00 x) s = .next (if s.busy then { s with ovr := true } else { s with ir := x, busy := true }) ∧
    hostAccess (.write 64 0x08 x) s = .next (if x.getLsbD 1 then { s with ovr := false } else s) ∧
    hostAccess (.write 64 0x10 x) s = .next (if s.busy then { s with ovr := true } else { s with arg0 := x }) ∧
    hostAccess (.write 64 0x18 x) s = .next (if s.busy then { s with ovr := true } else { s with arg1 := x }) ∧
    hostAccess (.write 64 0x20 x) s = .next (if s.busy then { s with ovr := true } else { s with arg2 := x }) ∧
    hostAccess (.write 64 0x28 x) s = .next (if s.busy then { s with ovr := true } else { s with arg3 := x }) ∧
    hostAccess (.write 64 0x30 x) s = .next (if s.busy then { s with ovr := true } else { s with arg4 := x })

/-- 20_memory.md R72 (the column "HOST read") and R78: what a read returns. `CMD`, `STATUS` and the operands read exactly at
any time; the other registers read exactly while the block is idle, and as a free value, a fresh one each time, while a
command is in flight (log 6). A read changes nothing of WYCORE (R76); `reads` is HOST's side (log 9). -/
def Obligations.ReadsReturnRegisters : Prop :=
  ∀ s : State,
    (∀ p ∈ [(0x00, (0 : Word)), (0x08, s.status), (0x10, s.arg0), (0x18, s.arg1), (0x20, s.arg2), (0x28, s.arg3),
        (0x30, s.arg4)],
      hostAccess (.read 64 p.1) s = .next { s with reads := p.2 :: s.reads }) ∧
    ∀ p ∈ [(0x40, s.res0), (0x48, s.res1), (0x50, s.res2), (0x58, s.res3), (0x60, s.pstate), (0x68, s.hseed),
        (0x70, s.hsec.w0), (0x78, s.hsec.w1), (0x80, s.hsec.w2), (0x88, s.hsec.w3), (0x90, s.hlen),
        (0x98, s.cfg Config.params)],
      (s.busy = false → hostAccess (.read 64 p.1) s = .next { s with reads := p.2 :: s.reads }) ∧
      (s.busy = true → hostAccess (.read 64 p.1) s = .next
        { s with reads := Config.unspecifiedRead s.freeCount :: s.reads, freeCount := s.freeCount + 1 })

/-- 20_memory.md R73, with the map of R72: which accesses are bus errors. A bus error is a fault of the HOST step that names
the access and is never cleared (R74), and a step that makes a refused access changes nothing of WYCORE, so a command in
flight is not disturbed (60_exceptions.md R305). That an offset at or past 0x100 is refused is the model's choice (log 12;
R83 leaves those addresses to the platform), and so is the list of faults, in which a fault is recorded (log 7). -/
def Obligations.BusErrorsExactly : Prop :=
  ∀ (s : State) (width off : Nat) (x : Word),
    ((∃ t, hostAccess (.read width off) s = .next t) ↔
      width = 64 ∧ off % 8 = 0 ∧ off ≤ 0x98 ∧ off ≠ 0x38) ∧
    ((∃ t, hostAccess (.write width off x) s = .next t) ↔
      width = 64 ∧ off % 8 = 0 ∧ off ≤ 0x30) ∧
    (∀ a, (¬ ∃ t, hostAccess a s = .next t) → hostAccess a s = .fault (.busError a) ∧
      ∀ rest, s.inputs = .access a :: rest →
        step s = .next { s with inputs := rest, faults := .busError a :: s.faults }) ∧
    ∀ t, step s = .next t → t.faults = s.faults ∨
      ∃ a rest, s.inputs = .access a :: rest ∧ (¬ ∃ u, hostAccess a s = .next u) ∧
        t.faults = .busError a :: s.faults

/-- 10_state.md R35, with the codes of 60_exceptions.md R301: the fields of `STATUS` as HOST reads it. -/
def Obligations.StatusFields : Prop :=
  ∀ s : State,
    s.status.getLsbD 0 = s.busy ∧ s.status.getLsbD 1 = s.ovr ∧ s.status.extractLsb' 2 2 = 0 ∧
    (s.status.extractLsb' 4 4).toNat =
      (match s.err with
        | .success => 0 | .illegal => 1 | .noctx => 2 | .seq => 3 | .length => 4 | .entropy => 5 | .retry => 6) ∧
    s.status.extractLsb' 8 6 = s.lastop ∧ s.status.extractLsb' 14 50 = 0

/-- 10_state.md R49: the fields of `CFG`, for every parameter set, and that HOST cannot write it. -/
def Obligations.CfgFields : Prop :=
  ∀ (P : Params) (s : State),
    (s.cfg P).getLsbD 0 = s.pvalid ∧ ((s.cfg P).getLsbD 1 = true ↔ s.pvar = .current) ∧
    ((s.cfg P).extractLsb' 2 2).toNat = (match s.hphase with | .none => 0 | .opened => 1 | .final => 2) ∧
    ((s.cfg P).getLsbD 4 = true ↔ s.hvar = .current) ∧
    (s.cfg P).getLsbD 5 = s.cell0.valid ∧ (s.cfg P).getLsbD 6 = s.cell1.valid ∧
    ((s.cfg P).getLsbD 7 = true ↔ P.secretSrc = .direct) ∧ (s.cfg P).extractLsb' 8 56 = 0 ∧
    ∀ x, hostAccess (.write 64 0x98 x) s = .fault (.busError (.write 64 0x98 x))

/-- 20_memory.md R77: the bytes of the window, little-endian, for a window at any base. -/
def Obligations.WindowBytesLittleEndian : Prop :=
  ∀ (P : Params) (s : State) (base k : Nat) (r : Reg), k < 8 →
    windowByte P base (base + r.offset + k) s = some ((s.regValue P r).extractLsb' (8 * k) 8)

/-! ### Reset -/

/-- 10_state.md R56: what every register reads in the state after reset, and after a reset event in any state, a command in
flight included; and that all hidden state is empty. -/
def Obligations.ResetValues : Prop :=
  ∀ t : State, (t = State.reset ∨ ∃ s : State, t = s.resetBlock) →
    (∀ r : Reg, r ≠ .cfg → t.regValue Config.params r = 0) ∧
    (∀ P : Params, t.cfg P = if P.secretSrc = .direct then 0x80 else 0) ∧
    t.ir = 0 ∧ t.hmsg = [] ∧ t.hphase = .none ∧ ∀ v, t.cell v = ⟨false, ⟨0, 0, 0, 0⟩⟩

/-- 70_reset_and_hazards.md R340: reset at any moment sets all of WYCORE's state, a command in flight and the answers given
to it included. 20_memory.md R86, 40_control.md R134: an answer of ENTROPY reaches the command in flight, behind those that
came before; with no command in flight, as right after a reset, it is discarded. What HOST has read, the faults of its
steps, the moves to come and the counter of the free values are the model's (log 1, log 5, log 7, log 9). -/
def Obligations.ResetAbandonsCommand : Prop :=
  ∀ (s : State) (rest : List Input),
    (s.inputs = .reset :: rest →
      step s = .next { State.reset with
        inputs := rest, reads := s.reads, faults := s.faults, freeCount := s.freeCount } ∧
      ∀ a rest', rest = .answer a :: rest' →
        step { State.reset with inputs := rest, reads := s.reads, faults := s.faults, freeCount := s.freeCount } =
          .next { State.reset with
            inputs := rest', reads := s.reads, faults := s.faults, freeCount := s.freeCount }) ∧
    ∀ a, s.inputs = .answer a :: rest →
      (s.busy = true → step s = .next { s with inputs := rest, answers := s.answers ++ [a] }) ∧
      (s.busy = false → step s = .next { s with inputs := rest })

/-! ### The engines -/

/-- 41_mixer.md R152: the laws of the mixer. -/
def Obligations.MixerLaws : Prop :=
  ∀ a b : Word,
    wymum a b = wymum b a ∧ wymix a b = wymix b a ∧ wymum a 0 = (0, 0) ∧ wymix a 0 = 0 ∧
    wymum a 1 = (a, 0) ∧ wymix a 1 = a ∧ (wymum a b).2.toNat ≤ 2 ^ 64 - 2 ∧
    wymum (BitVec.allOnes 64) (BitVec.allOnes 64) = (1, 0xfffffffffffffffe) ∧
    (wymum a b).2.toNat * 2 ^ 64 + (wymum a b).1.toNat = a.toNat * b.toNat

/-- 42_prng.md R174, for every parameter set with an odd constant: the k-th state after a construction, its output, and
that the state repeats only after 2^64 advances. -/
def Obligations.GeneratorSequence : Prop :=
  ∀ (P : Params) (s : State), s.pvalid = true →
    (∀ k : Nat, (pnextTimes P k s).pstate = s.pstate + BitVec.ofNat 64 k * (P.of s.pvar).prngAdd) ∧
    (∀ k : Nat, (pnextTimes P (k + 1) s).res0 =
      wymix (s.pstate + BitVec.ofNat 64 (k + 1) * (P.of s.pvar).prngAdd)
        ((s.pstate + BitVec.ofNat 64 (k + 1) * (P.of s.pvar).prngAdd) ^^^ (P.of s.pvar).prngXor)) ∧
    ((P.of s.pvar).prngAdd.getLsbD 0 = true →
      ∀ j k : Nat, j < 2 ^ 64 → k < 2 ^ 64 → (pnextTimes P j s).pstate = (pnextTimes P k s).pstate → j = k)

/-- 00_scope.md R19: `LE_k(M, i)` is the little-endian sum, where it is defined. -/
def Obligations.LittleEndianReads : Prop :=
  ∀ (k i : Nat) (m : List Byte), k ≤ 8 → i + k ≤ m.length →
    (readLE k m i).toNat = ((List.range k).map (fun j => (m.getD (i + j) 0).toNat * 2 ^ (8 * j))).sum

/-- 43_hash.md R202: how many strides and mid blocks a message takes, and where the loops stop. -/
def Obligations.BlockCounts : Prop :=
  ∀ (P : Params) (S : Table) (m : List Byte) (sd : Word) (n : Nat),
    ((stridesIfLong S m sd n).2.1 = 48 * (if 48 < n then (n - 1) / 48 else 0) ∧
      (stridesIfLong S m sd n).2.2 = n - 48 * (if 48 < n then (n - 1) / 48 else 0) ∧
      (0 < n → 1 ≤ (stridesIfLong S m sd n).2.2 ∧ (stridesIfLong S m sd n).2.2 ≤ 48)) ∧
    ∀ p i : Nat, 1 ≤ i → i ≤ 48 →
      (mids P S m sd p i).2.1 = p + 16 * ((i - 1) / 16) ∧ (mids P S m sd p i).2.2 = i - 16 * ((i - 1) / 16) ∧
      1 ≤ (mids P S m sd p i).2.2 ∧ (mids P S m sd p i).2.2 ≤ 16

/-- 43_hash.md R192 to R198 and R200: the digest of a message of 0 to 80 bytes, and of one of 97 to 112 bytes, with its
loops, its premix and its finish written out, for every parameter set: the short-input scheme, one and two mid blocks, one
and two strides with the lane fold, and a mid block after a stride. At 16 bytes the pseudocode of R194 and the comment
beside it differ; the model follows the pseudocode (log 18). -/
def Obligations.DigestOfMediumMessage : Prop :=
  ∀ (P : Params) (v : Variant) (seed : Word) (S : Table) (m : List Byte),
    let n := m.length
    let r8 := fun i => readLE 8 m i
    let r4 := fun i => readLE 4 m i
    let sd0 := match (P.of v).premix with
      | .mixPremix => seed ^^^ wymix (seed ^^^ S.w0) S.w1
      | .xorPremix => seed ^^^ S.w0
    let fin := fun (a b sd : Word) => match (P.of v).finish with
      | .mumFinish => wymix ((wymum (a ^^^ S.w1) (b ^^^ sd)).1 ^^^ S.w0 ^^^ BitVec.ofNat 64 n)
          ((wymum (a ^^^ S.w1) (b ^^^ sd)).2 ^^^ S.w1)
      | .nestedFinish => wymix (S.w1 ^^^ BitVec.ofNat 64 n) (wymix (a ^^^ S.w1) (b ^^^ sd))
    let tailed := fun (sd : Word) => fin (r8 (n - 16)) (r8 (n - 8)) sd
    let mid := fun (k : Nat) (p : Nat) (sd : Word) =>
      wymix (r8 p ^^^ tableGet S (P.midSecret k)) (r8 (p + 8) ^^^ sd)
    let lane0 := fun (p : Nat) (sd : Word) => wymix (r8 p ^^^ S.w1) (r8 (p + 8) ^^^ sd)
    let lane1 := fun (p : Nat) (sd : Word) => wymix (r8 (p + 16) ^^^ S.w2) (r8 (p + 24) ^^^ sd)
    let lane2 := fun (p : Nat) (sd : Word) => wymix (r8 (p + 32) ^^^ S.w3) (r8 (p + 40) ^^^ sd)
    (n = 0 → digest P v seed S m = fin 0 0 sd0) ∧
    (1 ≤ n → n ≤ 3 → digest P v seed S m =
      fin (BitVec.ofNat 64
        ((m.getD 0 0).toNat * 2 ^ 16 + (m.getD (n / 2) 0).toNat * 2 ^ 8 + (m.getD (n - 1) 0).toNat)) 0 sd0) ∧
    (4 ≤ n → n ≤ 7 → digest P v seed S m =
      fin ((r4 0 <<< 32) ||| r4 0) ((r4 (n - 4) <<< 32) ||| r4 (n - 4)) sd0) ∧
    (8 ≤ n → n ≤ 15 → digest P v seed S m =
      fin ((r4 0 <<< 32) ||| r4 4) ((r4 (n - 4) <<< 32) ||| r4 (n - 8)) sd0) ∧
    (n = 16 → digest P v seed S m = fin ((r4 0 <<< 32) ||| r4 8) ((r4 12 <<< 32) ||| r4 4) sd0) ∧
    (16 < n → n ≤ 32 → digest P v seed S m = tailed (mid 0 0 sd0)) ∧
    (32 < n → n ≤ 48 → digest P v seed S m = tailed (mid 1 16 (mid 0 0 sd0))) ∧
    (48 < n → n ≤ 64 → digest P v seed S m = tailed (lane0 0 sd0 ^^^ lane1 0 sd0 ^^^ lane2 0 sd0)) ∧
    (64 < n → n ≤ 80 → digest P v seed S m = tailed (mid 0 48 (lane0 0 sd0 ^^^ lane1 0 sd0 ^^^ lane2 0 sd0))) ∧
    (96 < n → n ≤ 112 → digest P v seed S m =
      tailed (lane0 48 (lane0 0 sd0) ^^^ lane1 48 (lane1 0 sd0) ^^^ lane2 48 (lane2 0 sd0)))

/-- 43_hash.md R210, R211: the bounded window and the digest of the whole message agree on every message, for every
parameter set, and the window keeps at most 48 pending bytes and 16 of the last stride: an equivalence of two designs. -/
def Obligations.WindowAgreesWithDigest : Prop :=
  ∀ (P : Params) (v : Variant) (seed : Word) (S : Table) (m : List Byte),
    windowDigest P v seed S m = digest P v seed S m ∧
    (m.foldl (windowAbsorb S) (windowStart P v seed S)).buf.length ≤ 48 ∧
    (m.foldl (windowAbsorb S) (windowStart P v seed S)).hist.length ≤ 16

/-- 43_hash.md R209: absorbing a message in chunks of 0 to 8 bytes leaves the whole message, whatever the chunks, and
HFIN then gives its digest. -/
def Obligations.ChunkingInvariance : Prop :=
  ∀ (s : State) (chunks : List (Word × BitVec 4)), s.hphase = .opened → s.hmsg = [] → s.hlen = 0 →
    (∀ p ∈ chunks, p.2.toNat ≤ 8) → (chunkBytes chunks).length ≤ 2 ^ 64 - 1 →
    (absorbAll chunks s).hmsg = chunkBytes chunks ∧
    (absorbAll chunks s).hlen.toNat = (chunkBytes chunks).length ∧
    (hfin Config.params (absorbAll chunks s)).res0 = digest Config.params s.hvar s.hseed s.hsec (chunkBytes chunks)

/-! ### Randomization -/

/-- 44_random.md R248: `IsPrime` is true exactly of the numbers with two positive divisors. -/
def Obligations.PrimalityPredicate : Prop :=
  ∀ w : Word, isPrime w = true ↔ (Nat.divisors w.toNat).card = 2

/-- 44_random.md R242: `SECRET_BYTES` is the ascending list of the bytes in the band, for every band, and what it is for
the default band. -/
def Obligations.SecretBytesTable : Prop :=
  (∀ P : Params, (secretBytes P).Pairwise (fun a b => a.toNat < b.toNat) ∧
    ∀ b, b ∈ secretBytes P ↔ popcount b ∈ P.bytePopBand) ∧
  (secretBytes Params.default).map BitVec.toNat =
    [15, 23, 27, 29, 30, 39, 43, 45, 46, 51, 53, 54, 57, 58] ++
    [60, 71, 75, 77, 78, 83, 85, 86, 89, 90, 92, 99, 101, 102] ++
    [105, 106, 108, 113, 114, 116, 120, 135, 139, 141, 142, 147, 149, 150] ++
    [153, 154, 156, 163, 165, 166, 169, 170, 172, 177, 178, 180, 184, 195] ++
    [197, 198, 201, 202, 204, 209, 210, 212, 216, 225, 226, 228, 232, 240]

/-- 44_random.md R246 (42_prng.md R172; 20_memory.md R87; R258). SEEDED: byte j of a candidate is selected by the output of
the j+1-th advance of the private stream, and eight advances and no answer are consumed. DIRECT: byte j is selected by
answer j, and exactly eight answers and no advance are consumed; with fewer the candidate waits, and a FAIL among the eight
is E_ENTROPY. -/
def Obligations.CandidateFollowsStream : Prop :=
  ∀ (P : Params) (v : Variant) (t : Word) (as : List Answer),
    (P.secretSrc = .seeded →
      ∃ w, candidate P v (secretBytes P) ⟨t, as⟩ = .got w ⟨t + 8 * (P.of v).prngAdd, as⟩ ∧
        ∀ j < 8, w.extractLsb' (8 * j) 8 =
          (secretBytes P).getD
            ((wymix (t + BitVec.ofNat 64 (j + 1) * (P.of v).prngAdd)
              ((t + BitVec.ofNat 64 (j + 1) * (P.of v).prngAdd) ^^^ (P.of v).prngXor)).toNat % (secretBytes P).length) 0) ∧
    (P.secretSrc = .direct → ∀ rs : List Word,
      (rs.length = 8 →
        ∃ w, candidate P v (secretBytes P) ⟨t, rs.map Answer.ofWord ++ as⟩ = .got w ⟨t, as⟩ ∧
          ∀ j < 8, w.extractLsb' (8 * j) 8 =
            (secretBytes P).getD ((rs.getD j 0).toNat % (secretBytes P).length) 0) ∧
      (rs.length < 8 →
        candidate P v (secretBytes P) ⟨t, rs.map Answer.ofWord⟩ = .waiting ∧
        candidate P v (secretBytes P) ⟨t, rs.map Answer.ofWord ++ .fail :: as⟩ = .raised .entropy))

/-- 44_random.md R258, first point: every table GenerateSecret returns is good, for every legal parameter set, every
supply of answers and every time. -/
def Obligations.GeneratedSecretIsGood : Prop :=
  ∀ (P : Params) (v : Variant) (k : Nat) (g g' : Supply) (S : Table), P.legal = true →
    generateSecret P v k g = .got S g' → good P S = true

/-- 44_random.md R245, R258 (second point), R249: what GenerateSecret has built and drawn when it returns. The table is the
words accepted, in order, from n candidates built one after the other, the n-th giving the fourth word, with n within the
cap. SEEDED has made exactly one draw, for the stream word the candidates start from; DIRECT has made exactly eight draws
for each of the n candidates; the answers are used in order. SEEDED waits while the draw is unanswered (40_control.md R134)
and raises E_ENTROPY on FAIL (R241). -/
def Obligations.GenerateSecretDraws : Prop :=
  ∀ (P : Params) (v : Variant) (k : Nat) (g : Supply),
    (P.secretSrc = .seeded → g.answers = [] → generateSecret P v k g = .waiting) ∧
    (P.secretSrc = .seeded → ∀ rest, g.answers = .fail :: rest → generateSecret P v k g = .raised .entropy) ∧
    ∀ (g' : Supply) (S : Table), generateSecret P v k g = .got S g' →
      ∃ (g₀ : Supply) (n : Nat) (ws : List Word),
        candidates P v (secretBytes P) n g₀ = .got ws g' ∧
        ws.foldl (acceptInto P) [] = tableList S ∧
        (∀ m < n, ((ws.take m).foldl (acceptInto P) []).length < 4) ∧
        4 ≤ n ∧ (∀ cap, P.retryCap = some cap → n ≤ cap) ∧
        (P.secretSrc = .seeded → (∃ a, g.answers = a :: g'.answers) ∧
          ∃ t, generateSeed g = .got t ⟨g.stream, g'.answers⟩ ∧ g₀ = ⟨t, g'.answers⟩) ∧
        (P.secretSrc = .direct → g₀ = g ∧ ∃ used, used.length = 8 * n ∧ g.answers = used ++ g'.answers)

/-- 70_reset_and_hazards.md R360: the result of GenerateSecret does not depend on how much time CORE has had, once it is
enough (log 4). -/
def Obligations.TimeDoesNotChangeTheSecret : Prop :=
  ∀ (P : Params) (v : Variant) (k k' : Nat) (g : Supply), k ≤ k' →
    generateSecret P v k g ≠ .waiting → generateSecret P v k' g = generateSecret P v k g

/-- 44_random.md R249: with no cap E_RETRY is never raised; with a cap of N no candidate beyond the N-th is ever built (time
for more changes nothing), and in SEEDED mode time for N decides as soon as ENTROPY has answered. -/
def Obligations.RetryCapBoundsCandidates : Prop :=
  ∀ (P : Params) (v : Variant) (k : Nat) (g : Supply),
    (P.retryCap = none → generateSecret P v k g ≠ .raised .retry) ∧
    ∀ n, P.retryCap = some n → n ≤ k →
      generateSecret P v k g = generateSecret P v n g ∧
      (P.secretSrc = .seeded → g.answers ≠ [] → generateSecret P v n g ≠ .waiting)

/-- 44_random.md R247: `Good` is symmetric, stated for the two exchanges that generate every permutation. -/
def Obligations.GoodIsSymmetric : Prop :=
  ∀ (P : Params) (a b c d : Word),
    good P ⟨a, b, c, d⟩ = good P ⟨b, a, c, d⟩ ∧ good P ⟨a, b, c, d⟩ = good P ⟨b, c, d, a⟩

/-! ### Invariants -/

/-- The state after reset meets the invariant (10_state.md R47, R56). -/
def Obligations.ResetMeetsInvariant : Prop := State.reset.Inv

/-- Every step keeps the invariant (10_state.md R47, R41, R43; 44_random.md R250, R258): the length is the number of
absorbed bytes, valid cells hold good tables, and state that was never constructed still holds its reset value. -/
def Obligations.StepKeepsInvariant : Prop :=
  ∀ s t : State, s.Inv → step s = .next t → t.Inv

/-- A machine with no second HOST never stops, whatever its HOST accesses, and one whose HOST makes legal accesses only
never faults: for every number of steps from every such state (20_memory.md R74, 60_exceptions.md R300, R305, R314). The
list of moves is the model's (log 1), and so is the list of faults (log 7). -/
def Obligations.CleanRunNeverStops : Prop :=
  ∀ (s : State) (k : Nat),
    (s.oneHost = true → ∃ t : State, Sys2Proof.core.run k s = .next t ∧ t.oneHost = true) ∧
    (s.clean = true → ∃ t : State, Sys2Proof.core.run k s = .next t ∧ t.clean = true ∧ t.faults = s.faults)
end

