-- ==== Sys2Proof/Laws/Bytes.lean ====
section
/-! SUPPORT. Little-endian words as numbers (00_scope.md R19), and the bytes of a word. -/

namespace Sys2Proof.Machine

/-- One more byte below an at most seven-byte word, and the bound of the result. -/
theorem leWord_toNat_cons_lt (bs : List Byte) (b : Byte) (h : bs.length ≤ 7) :
    (leWord (b :: bs)).toNat = b.toNat + 256 * (leWord bs).toNat ∧
      (leWord (b :: bs)).toNat < 256 ^ (bs.length + 1) := by
  induction bs generalizing b with
  | nil =>
    have := b.isLt
    simp [leWord]; omega
  | cons c cs ih =>
    obtain ⟨-, hlt⟩ := ih c (by simp at h; omega)
    have h7 : 256 ^ (cs.length + 1) ≤ 256 ^ 7 := Nat.pow_le_pow_right (by decide) (by simpa using h)
    have hb := b.isLt
    have heq : (leWord (b :: c :: cs)).toNat = b.toNat + 256 * (leWord (c :: cs)).toNat := by
      rw [leWord, BitVec.toNat_add, BitVec.toNat_shiftLeft, BitVec.toNat_setWidth, Nat.shiftLeft_eq]
      omega
    refine ⟨heq, ?_⟩
    rw [heq, List.length_cons, pow_succ]
    omega

/-- `LE` of a byte and at most seven more (00_scope.md R19). -/
theorem leWord_toNat_cons (b : Byte) (bs : List Byte) (h : bs.length ≤ 7) :
    (leWord (b :: bs)).toNat = b.toNat + 256 * (leWord bs).toNat := (leWord_toNat_cons_lt bs b h).1

/-- An appended bit vector as a number. -/
theorem toNat_append_eq {m n : Nat} (x : BitVec m) (y : BitVec n) :
    (x ++ y).toNat = x.toNat * 2 ^ n + y.toNat := by
  rw [BitVec.toNat_append, ← Nat.shiftLeft_add_eq_or_of_lt y.isLt, Nat.shiftLeft_eq]

@[simp] theorem leWord_nil : leWord [] = 0 := rfl

/-- `LE_8` of eight bytes is their concatenation, the first byte least significant (20_memory.md R87). -/
theorem leWord_eight (e0 e1 e2 e3 e4 e5 e6 e7 : Byte) :
    leWord [e0, e1, e2, e3, e4, e5, e6, e7] = e7 ++ e6 ++ e5 ++ e4 ++ e3 ++ e2 ++ e1 ++ e0 := by
  apply BitVec.eq_of_toNat_eq
  iterate 8 rw [leWord_toNat_cons _ _ (by simp)]
  simp only [toNat_append_eq, leWord_nil, BitVec.ofNat_eq_ofNat, BitVec.toNat_ofNat]
  omega

/-- The bytes of a word, read back, are the word (20_memory.md R77, R87). -/
theorem leWord_byteOf (w : Word) :
    leWord [byteOf w 0, byteOf w 1, byteOf w 2, byteOf w 3, byteOf w 4, byteOf w 5, byteOf w 6, byteOf w 7] = w := by
  apply BitVec.eq_of_toNat_eq
  iterate 8 rw [leWord_toNat_cons _ _ (by simp)]
  simp only [leWord_nil, byteOf, BitVec.extractLsb'_toNat, Nat.shiftRight_eq_div_pow, BitVec.ofNat_eq_ofNat,
    BitVec.toNat_ofNat]
  have := w.isLt
  omega

/-- The packed bytes are as many as the count says (43_hash.md R207). -/
@[simp] theorem length_packedBytes (w : Word) (c : Nat) : (packedBytes w c).length = c := by simp [packedBytes]

end Sys2Proof.Machine
end

