-- ==== Sys2Proof/Laws/State.lean ====
section
/-! SUPPORT. One lemma per field of State per shared update, true by unfolding the update once. -/

namespace Sys2Proof.Machine

variable (s : State)

@[simp] theorem State.complete_eq : s.complete = s.finish .success := rfl
@[simp] theorem State.raise_eq (e : Err) : s.raise e = s.finish e := rfl

@[simp] theorem State.finish_arg0 (e : Err) : (s.finish e).arg0 = s.arg0 := rfl
@[simp] theorem State.finish_arg1 (e : Err) : (s.finish e).arg1 = s.arg1 := rfl
@[simp] theorem State.finish_arg2 (e : Err) : (s.finish e).arg2 = s.arg2 := rfl
@[simp] theorem State.finish_arg3 (e : Err) : (s.finish e).arg3 = s.arg3 := rfl
@[simp] theorem State.finish_arg4 (e : Err) : (s.finish e).arg4 = s.arg4 := rfl
@[simp] theorem State.finish_res0 (e : Err) : (s.finish e).res0 = s.res0 := rfl
@[simp] theorem State.finish_res1 (e : Err) : (s.finish e).res1 = s.res1 := rfl
@[simp] theorem State.finish_res2 (e : Err) : (s.finish e).res2 = s.res2 := rfl
@[simp] theorem State.finish_res3 (e : Err) : (s.finish e).res3 = s.res3 := rfl
@[simp] theorem State.finish_ir (e : Err) : (s.finish e).ir = s.ir := rfl
@[simp] theorem State.finish_busy (e : Err) : (s.finish e).busy = false := rfl
@[simp] theorem State.finish_ovr (e : Err) : (s.finish e).ovr = s.ovr := rfl
@[simp] theorem State.finish_err (e : Err) : (s.finish e).err = e := rfl
@[simp] theorem State.finish_lastop (e : Err) : (s.finish e).lastop = opField s.ir := rfl
@[simp] theorem State.finish_pstate (e : Err) : (s.finish e).pstate = s.pstate := rfl
@[simp] theorem State.finish_pvalid (e : Err) : (s.finish e).pvalid = s.pvalid := rfl
@[simp] theorem State.finish_pvar (e : Err) : (s.finish e).pvar = s.pvar := rfl
@[simp] theorem State.finish_hseed (e : Err) : (s.finish e).hseed = s.hseed := rfl
@[simp] theorem State.finish_hsec (e : Err) : (s.finish e).hsec = s.hsec := rfl
@[simp] theorem State.finish_hvar (e : Err) : (s.finish e).hvar = s.hvar := rfl
@[simp] theorem State.finish_hphase (e : Err) : (s.finish e).hphase = s.hphase := rfl
@[simp] theorem State.finish_hlen (e : Err) : (s.finish e).hlen = s.hlen := rfl
@[simp] theorem State.finish_hmsg (e : Err) : (s.finish e).hmsg = s.hmsg := rfl
@[simp] theorem State.finish_cell0 (e : Err) : (s.finish e).cell0 = s.cell0 := rfl
@[simp] theorem State.finish_cell1 (e : Err) : (s.finish e).cell1 = s.cell1 := rfl
@[simp] theorem State.finish_answers (e : Err) : (s.finish e).answers = [] := rfl
@[simp] theorem State.finish_effort (e : Err) : (s.finish e).effort = 0 := rfl
@[simp] theorem State.finish_inputs (e : Err) : (s.finish e).inputs = s.inputs := rfl
@[simp] theorem State.finish_reads (e : Err) : (s.finish e).reads = s.reads := rfl
@[simp] theorem State.finish_faults (e : Err) : (s.finish e).faults = s.faults := rfl
@[simp] theorem State.finish_freeCount (e : Err) : (s.finish e).freeCount = s.freeCount := rfl
@[simp] theorem State.finish_argTable (e : Err) : (s.finish e).argTable = s.argTable := rfl
@[simp] theorem State.finish_cell (e : Err) (u : Variant) : (s.finish e).cell u = s.cell u := by cases u <;> rfl

@[simp] theorem State.stall_arg0 : s.stall.arg0 = s.arg0 := rfl
@[simp] theorem State.stall_arg1 : s.stall.arg1 = s.arg1 := rfl
@[simp] theorem State.stall_arg2 : s.stall.arg2 = s.arg2 := rfl
@[simp] theorem State.stall_arg3 : s.stall.arg3 = s.arg3 := rfl
@[simp] theorem State.stall_arg4 : s.stall.arg4 = s.arg4 := rfl
@[simp] theorem State.stall_res0 : s.stall.res0 = s.res0 := rfl
@[simp] theorem State.stall_res1 : s.stall.res1 = s.res1 := rfl
@[simp] theorem State.stall_res2 : s.stall.res2 = s.res2 := rfl
@[simp] theorem State.stall_res3 : s.stall.res3 = s.res3 := rfl
@[simp] theorem State.stall_ir : s.stall.ir = s.ir := rfl
@[simp] theorem State.stall_busy : s.stall.busy = s.busy := rfl
@[simp] theorem State.stall_ovr : s.stall.ovr = s.ovr := rfl
@[simp] theorem State.stall_err : s.stall.err = s.err := rfl
@[simp] theorem State.stall_lastop : s.stall.lastop = s.lastop := rfl
@[simp] theorem State.stall_pstate : s.stall.pstate = s.pstate := rfl
@[simp] theorem State.stall_pvalid : s.stall.pvalid = s.pvalid := rfl
@[simp] theorem State.stall_pvar : s.stall.pvar = s.pvar := rfl
@[simp] theorem State.stall_hseed : s.stall.hseed = s.hseed := rfl
@[simp] theorem State.stall_hsec : s.stall.hsec = s.hsec := rfl
@[simp] theorem State.stall_hvar : s.stall.hvar = s.hvar := rfl
@[simp] theorem State.stall_hphase : s.stall.hphase = s.hphase := rfl
@[simp] theorem State.stall_hlen : s.stall.hlen = s.hlen := rfl
@[simp] theorem State.stall_hmsg : s.stall.hmsg = s.hmsg := rfl
@[simp] theorem State.stall_cell0 : s.stall.cell0 = s.cell0 := rfl
@[simp] theorem State.stall_cell1 : s.stall.cell1 = s.cell1 := rfl
@[simp] theorem State.stall_answers : s.stall.answers = s.answers := rfl
@[simp] theorem State.stall_effort : s.stall.effort = 2 * s.effort + 1 := rfl
@[simp] theorem State.stall_inputs : s.stall.inputs = s.inputs := rfl
@[simp] theorem State.stall_reads : s.stall.reads = s.reads := rfl
@[simp] theorem State.stall_faults : s.stall.faults = s.faults := rfl
@[simp] theorem State.stall_freeCount : s.stall.freeCount = s.freeCount := rfl
@[simp] theorem State.stall_argTable : s.stall.argTable = s.argTable := rfl
@[simp] theorem State.stall_cell (u : Variant) : s.stall.cell u = s.cell u := by cases u <;> rfl

@[simp] theorem State.construct_arg0 (x : Word) (S : Table) (v : Variant) : (s.construct x S v).arg0 = s.arg0 := rfl
@[simp] theorem State.construct_arg1 (x : Word) (S : Table) (v : Variant) : (s.construct x S v).arg1 = s.arg1 := rfl
@[simp] theorem State.construct_arg2 (x : Word) (S : Table) (v : Variant) : (s.construct x S v).arg2 = s.arg2 := rfl
@[simp] theorem State.construct_arg3 (x : Word) (S : Table) (v : Variant) : (s.construct x S v).arg3 = s.arg3 := rfl
@[simp] theorem State.construct_arg4 (x : Word) (S : Table) (v : Variant) : (s.construct x S v).arg4 = s.arg4 := rfl
@[simp] theorem State.construct_res0 (x : Word) (S : Table) (v : Variant) : (s.construct x S v).res0 = s.res0 := rfl
@[simp] theorem State.construct_res1 (x : Word) (S : Table) (v : Variant) : (s.construct x S v).res1 = s.res1 := rfl
@[simp] theorem State.construct_res2 (x : Word) (S : Table) (v : Variant) : (s.construct x S v).res2 = s.res2 := rfl
@[simp] theorem State.construct_res3 (x : Word) (S : Table) (v : Variant) : (s.construct x S v).res3 = s.res3 := rfl
@[simp] theorem State.construct_ir (x : Word) (S : Table) (v : Variant) : (s.construct x S v).ir = s.ir := rfl
@[simp] theorem State.construct_busy (x : Word) (S : Table) (v : Variant) : (s.construct x S v).busy = s.busy := rfl
@[simp] theorem State.construct_ovr (x : Word) (S : Table) (v : Variant) : (s.construct x S v).ovr = s.ovr := rfl
@[simp] theorem State.construct_err (x : Word) (S : Table) (v : Variant) : (s.construct x S v).err = s.err := rfl
@[simp] theorem State.construct_lastop (x : Word) (S : Table) (v : Variant) : (s.construct x S v).lastop = s.lastop := rfl
@[simp] theorem State.construct_pstate (x : Word) (S : Table) (v : Variant) : (s.construct x S v).pstate = s.pstate := rfl
@[simp] theorem State.construct_pvalid (x : Word) (S : Table) (v : Variant) : (s.construct x S v).pvalid = s.pvalid := rfl
@[simp] theorem State.construct_pvar (x : Word) (S : Table) (v : Variant) : (s.construct x S v).pvar = s.pvar := rfl
@[simp] theorem State.construct_hseed (x : Word) (S : Table) (v : Variant) : (s.construct x S v).hseed = x := rfl
@[simp] theorem State.construct_hsec (x : Word) (S : Table) (v : Variant) : (s.construct x S v).hsec = S := rfl
@[simp] theorem State.construct_hvar (x : Word) (S : Table) (v : Variant) : (s.construct x S v).hvar = v := rfl
@[simp] theorem State.construct_hphase (x : Word) (S : Table) (v : Variant) : (s.construct x S v).hphase = .opened := rfl
@[simp] theorem State.construct_hlen (x : Word) (S : Table) (v : Variant) : (s.construct x S v).hlen = 0 := rfl
@[simp] theorem State.construct_hmsg (x : Word) (S : Table) (v : Variant) : (s.construct x S v).hmsg = [] := rfl
@[simp] theorem State.construct_cell0 (x : Word) (S : Table) (v : Variant) : (s.construct x S v).cell0 = s.cell0 := rfl
@[simp] theorem State.construct_cell1 (x : Word) (S : Table) (v : Variant) : (s.construct x S v).cell1 = s.cell1 := rfl
@[simp] theorem State.construct_answers (x : Word) (S : Table) (v : Variant) : (s.construct x S v).answers = s.answers := rfl
@[simp] theorem State.construct_effort (x : Word) (S : Table) (v : Variant) : (s.construct x S v).effort = s.effort := rfl
@[simp] theorem State.construct_inputs (x : Word) (S : Table) (v : Variant) : (s.construct x S v).inputs = s.inputs := rfl
@[simp] theorem State.construct_reads (x : Word) (S : Table) (v : Variant) : (s.construct x S v).reads = s.reads := rfl
@[simp] theorem State.construct_faults (x : Word) (S : Table) (v : Variant) : (s.construct x S v).faults = s.faults := rfl
@[simp] theorem State.construct_freeCount (x : Word) (S : Table) (v : Variant) : (s.construct x S v).freeCount = s.freeCount := rfl
@[simp] theorem State.construct_argTable (x : Word) (S : Table) (v : Variant) : (s.construct x S v).argTable = s.argTable := rfl
@[simp] theorem State.construct_cell (x : Word) (S : Table) (v : Variant) (u : Variant) : (s.construct x S v).cell u = s.cell u := by cases u <;> rfl

@[simp] theorem State.setResults_arg0 (S : Table) : (s.setResults S).arg0 = s.arg0 := rfl
@[simp] theorem State.setResults_arg1 (S : Table) : (s.setResults S).arg1 = s.arg1 := rfl
@[simp] theorem State.setResults_arg2 (S : Table) : (s.setResults S).arg2 = s.arg2 := rfl
@[simp] theorem State.setResults_arg3 (S : Table) : (s.setResults S).arg3 = s.arg3 := rfl
@[simp] theorem State.setResults_arg4 (S : Table) : (s.setResults S).arg4 = s.arg4 := rfl
@[simp] theorem State.setResults_res0 (S : Table) : (s.setResults S).res0 = S.w0 := rfl
@[simp] theorem State.setResults_res1 (S : Table) : (s.setResults S).res1 = S.w1 := rfl
@[simp] theorem State.setResults_res2 (S : Table) : (s.setResults S).res2 = S.w2 := rfl
@[simp] theorem State.setResults_res3 (S : Table) : (s.setResults S).res3 = S.w3 := rfl
@[simp] theorem State.setResults_ir (S : Table) : (s.setResults S).ir = s.ir := rfl
@[simp] theorem State.setResults_busy (S : Table) : (s.setResults S).busy = s.busy := rfl
@[simp] theorem State.setResults_ovr (S : Table) : (s.setResults S).ovr = s.ovr := rfl
@[simp] theorem State.setResults_err (S : Table) : (s.setResults S).err = s.err := rfl
@[simp] theorem State.setResults_lastop (S : Table) : (s.setResults S).lastop = s.lastop := rfl
@[simp] theorem State.setResults_pstate (S : Table) : (s.setResults S).pstate = s.pstate := rfl
@[simp] theorem State.setResults_pvalid (S : Table) : (s.setResults S).pvalid = s.pvalid := rfl
@[simp] theorem State.setResults_pvar (S : Table) : (s.setResults S).pvar = s.pvar := rfl
@[simp] theorem State.setResults_hseed (S : Table) : (s.setResults S).hseed = s.hseed := rfl
@[simp] theorem State.setResults_hsec (S : Table) : (s.setResults S).hsec = s.hsec := rfl
@[simp] theorem State.setResults_hvar (S : Table) : (s.setResults S).hvar = s.hvar := rfl
@[simp] theorem State.setResults_hphase (S : Table) : (s.setResults S).hphase = s.hphase := rfl
@[simp] theorem State.setResults_hlen (S : Table) : (s.setResults S).hlen = s.hlen := rfl
@[simp] theorem State.setResults_hmsg (S : Table) : (s.setResults S).hmsg = s.hmsg := rfl
@[simp] theorem State.setResults_cell0 (S : Table) : (s.setResults S).cell0 = s.cell0 := rfl
@[simp] theorem State.setResults_cell1 (S : Table) : (s.setResults S).cell1 = s.cell1 := rfl
@[simp] theorem State.setResults_answers (S : Table) : (s.setResults S).answers = s.answers := rfl
@[simp] theorem State.setResults_effort (S : Table) : (s.setResults S).effort = s.effort := rfl
@[simp] theorem State.setResults_inputs (S : Table) : (s.setResults S).inputs = s.inputs := rfl
@[simp] theorem State.setResults_reads (S : Table) : (s.setResults S).reads = s.reads := rfl
@[simp] theorem State.setResults_faults (S : Table) : (s.setResults S).faults = s.faults := rfl
@[simp] theorem State.setResults_freeCount (S : Table) : (s.setResults S).freeCount = s.freeCount := rfl
@[simp] theorem State.setResults_argTable (S : Table) : (s.setResults S).argTable = s.argTable := rfl
@[simp] theorem State.setResults_cell (S : Table) (u : Variant) : (s.setResults S).cell u = s.cell u := by cases u <;> rfl

@[simp] theorem State.append_arg0 (bs : List Byte) : (s.append bs).arg0 = s.arg0 := rfl
@[simp] theorem State.append_arg1 (bs : List Byte) : (s.append bs).arg1 = s.arg1 := rfl
@[simp] theorem State.append_arg2 (bs : List Byte) : (s.append bs).arg2 = s.arg2 := rfl
@[simp] theorem State.append_arg3 (bs : List Byte) : (s.append bs).arg3 = s.arg3 := rfl
@[simp] theorem State.append_arg4 (bs : List Byte) : (s.append bs).arg4 = s.arg4 := rfl
@[simp] theorem State.append_res0 (bs : List Byte) : (s.append bs).res0 = s.res0 := rfl
@[simp] theorem State.append_res1 (bs : List Byte) : (s.append bs).res1 = s.res1 := rfl
@[simp] theorem State.append_res2 (bs : List Byte) : (s.append bs).res2 = s.res2 := rfl
@[simp] theorem State.append_res3 (bs : List Byte) : (s.append bs).res3 = s.res3 := rfl
@[simp] theorem State.append_ir (bs : List Byte) : (s.append bs).ir = s.ir := rfl
@[simp] theorem State.append_busy (bs : List Byte) : (s.append bs).busy = s.busy := rfl
@[simp] theorem State.append_ovr (bs : List Byte) : (s.append bs).ovr = s.ovr := rfl
@[simp] theorem State.append_err (bs : List Byte) : (s.append bs).err = s.err := rfl
@[simp] theorem State.append_lastop (bs : List Byte) : (s.append bs).lastop = s.lastop := rfl
@[simp] theorem State.append_pstate (bs : List Byte) : (s.append bs).pstate = s.pstate := rfl
@[simp] theorem State.append_pvalid (bs : List Byte) : (s.append bs).pvalid = s.pvalid := rfl
@[simp] theorem State.append_pvar (bs : List Byte) : (s.append bs).pvar = s.pvar := rfl
@[simp] theorem State.append_hseed (bs : List Byte) : (s.append bs).hseed = s.hseed := rfl
@[simp] theorem State.append_hsec (bs : List Byte) : (s.append bs).hsec = s.hsec := rfl
@[simp] theorem State.append_hvar (bs : List Byte) : (s.append bs).hvar = s.hvar := rfl
@[simp] theorem State.append_hphase (bs : List Byte) : (s.append bs).hphase = s.hphase := rfl
@[simp] theorem State.append_hlen (bs : List Byte) : (s.append bs).hlen = s.hlen + BitVec.ofNat 64 bs.length := rfl
@[simp] theorem State.append_hmsg (bs : List Byte) : (s.append bs).hmsg = s.hmsg ++ bs := rfl
@[simp] theorem State.append_cell0 (bs : List Byte) : (s.append bs).cell0 = s.cell0 := rfl
@[simp] theorem State.append_cell1 (bs : List Byte) : (s.append bs).cell1 = s.cell1 := rfl
@[simp] theorem State.append_answers (bs : List Byte) : (s.append bs).answers = s.answers := rfl
@[simp] theorem State.append_effort (bs : List Byte) : (s.append bs).effort = s.effort := rfl
@[simp] theorem State.append_inputs (bs : List Byte) : (s.append bs).inputs = s.inputs := rfl
@[simp] theorem State.append_reads (bs : List Byte) : (s.append bs).reads = s.reads := rfl
@[simp] theorem State.append_faults (bs : List Byte) : (s.append bs).faults = s.faults := rfl
@[simp] theorem State.append_freeCount (bs : List Byte) : (s.append bs).freeCount = s.freeCount := rfl
@[simp] theorem State.append_argTable (bs : List Byte) : (s.append bs).argTable = s.argTable := rfl
@[simp] theorem State.append_cell (bs : List Byte) (u : Variant) : (s.append bs).cell u = s.cell u := by cases u <;> rfl

@[simp] theorem State.issue_arg0 (w : Word) : (s.issue w).arg0 = s.arg0 := rfl
@[simp] theorem State.issue_arg1 (w : Word) : (s.issue w).arg1 = s.arg1 := rfl
@[simp] theorem State.issue_arg2 (w : Word) : (s.issue w).arg2 = s.arg2 := rfl
@[simp] theorem State.issue_arg3 (w : Word) : (s.issue w).arg3 = s.arg3 := rfl
@[simp] theorem State.issue_arg4 (w : Word) : (s.issue w).arg4 = s.arg4 := rfl
@[simp] theorem State.issue_res0 (w : Word) : (s.issue w).res0 = s.res0 := rfl
@[simp] theorem State.issue_res1 (w : Word) : (s.issue w).res1 = s.res1 := rfl
@[simp] theorem State.issue_res2 (w : Word) : (s.issue w).res2 = s.res2 := rfl
@[simp] theorem State.issue_res3 (w : Word) : (s.issue w).res3 = s.res3 := rfl
@[simp] theorem State.issue_ir (w : Word) : (s.issue w).ir = w := rfl
@[simp] theorem State.issue_busy (w : Word) : (s.issue w).busy = true := rfl
@[simp] theorem State.issue_ovr (w : Word) : (s.issue w).ovr = s.ovr := rfl
@[simp] theorem State.issue_err (w : Word) : (s.issue w).err = s.err := rfl
@[simp] theorem State.issue_lastop (w : Word) : (s.issue w).lastop = s.lastop := rfl
@[simp] theorem State.issue_pstate (w : Word) : (s.issue w).pstate = s.pstate := rfl
@[simp] theorem State.issue_pvalid (w : Word) : (s.issue w).pvalid = s.pvalid := rfl
@[simp] theorem State.issue_pvar (w : Word) : (s.issue w).pvar = s.pvar := rfl
@[simp] theorem State.issue_hseed (w : Word) : (s.issue w).hseed = s.hseed := rfl
@[simp] theorem State.issue_hsec (w : Word) : (s.issue w).hsec = s.hsec := rfl
@[simp] theorem State.issue_hvar (w : Word) : (s.issue w).hvar = s.hvar := rfl
@[simp] theorem State.issue_hphase (w : Word) : (s.issue w).hphase = s.hphase := rfl
@[simp] theorem State.issue_hlen (w : Word) : (s.issue w).hlen = s.hlen := rfl
@[simp] theorem State.issue_hmsg (w : Word) : (s.issue w).hmsg = s.hmsg := rfl
@[simp] theorem State.issue_cell0 (w : Word) : (s.issue w).cell0 = s.cell0 := rfl
@[simp] theorem State.issue_cell1 (w : Word) : (s.issue w).cell1 = s.cell1 := rfl
@[simp] theorem State.issue_answers (w : Word) : (s.issue w).answers = s.answers := rfl
@[simp] theorem State.issue_effort (w : Word) : (s.issue w).effort = s.effort := rfl
@[simp] theorem State.issue_inputs (w : Word) : (s.issue w).inputs = s.inputs := rfl
@[simp] theorem State.issue_reads (w : Word) : (s.issue w).reads = s.reads := rfl
@[simp] theorem State.issue_faults (w : Word) : (s.issue w).faults = s.faults := rfl
@[simp] theorem State.issue_freeCount (w : Word) : (s.issue w).freeCount = s.freeCount := rfl
@[simp] theorem State.issue_argTable (w : Word) : (s.issue w).argTable = s.argTable := rfl
@[simp] theorem State.issue_cell (w : Word) (u : Variant) : (s.issue w).cell u = s.cell u := by cases u <;> rfl

@[simp] theorem State.overrun_arg0 : s.overrun.arg0 = s.arg0 := rfl
@[simp] theorem State.overrun_arg1 : s.overrun.arg1 = s.arg1 := rfl
@[simp] theorem State.overrun_arg2 : s.overrun.arg2 = s.arg2 := rfl
@[simp] theorem State.overrun_arg3 : s.overrun.arg3 = s.arg3 := rfl
@[simp] theorem State.overrun_arg4 : s.overrun.arg4 = s.arg4 := rfl
@[simp] theorem State.overrun_res0 : s.overrun.res0 = s.res0 := rfl
@[simp] theorem State.overrun_res1 : s.overrun.res1 = s.res1 := rfl
@[simp] theorem State.overrun_res2 : s.overrun.res2 = s.res2 := rfl
@[simp] theorem State.overrun_res3 : s.overrun.res3 = s.res3 := rfl
@[simp] theorem State.overrun_ir : s.overrun.ir = s.ir := rfl
@[simp] theorem State.overrun_busy : s.overrun.busy = s.busy := rfl
@[simp] theorem State.overrun_ovr : s.overrun.ovr = true := rfl
@[simp] theorem State.overrun_err : s.overrun.err = s.err := rfl
@[simp] theorem State.overrun_lastop : s.overrun.lastop = s.lastop := rfl
@[simp] theorem State.overrun_pstate : s.overrun.pstate = s.pstate := rfl
@[simp] theorem State.overrun_pvalid : s.overrun.pvalid = s.pvalid := rfl
@[simp] theorem State.overrun_pvar : s.overrun.pvar = s.pvar := rfl
@[simp] theorem State.overrun_hseed : s.overrun.hseed = s.hseed := rfl
@[simp] theorem State.overrun_hsec : s.overrun.hsec = s.hsec := rfl
@[simp] theorem State.overrun_hvar : s.overrun.hvar = s.hvar := rfl
@[simp] theorem State.overrun_hphase : s.overrun.hphase = s.hphase := rfl
@[simp] theorem State.overrun_hlen : s.overrun.hlen = s.hlen := rfl
@[simp] theorem State.overrun_hmsg : s.overrun.hmsg = s.hmsg := rfl
@[simp] theorem State.overrun_cell0 : s.overrun.cell0 = s.cell0 := rfl
@[simp] theorem State.overrun_cell1 : s.overrun.cell1 = s.cell1 := rfl
@[simp] theorem State.overrun_answers : s.overrun.answers = s.answers := rfl
@[simp] theorem State.overrun_effort : s.overrun.effort = s.effort := rfl
@[simp] theorem State.overrun_inputs : s.overrun.inputs = s.inputs := rfl
@[simp] theorem State.overrun_reads : s.overrun.reads = s.reads := rfl
@[simp] theorem State.overrun_faults : s.overrun.faults = s.faults := rfl
@[simp] theorem State.overrun_freeCount : s.overrun.freeCount = s.freeCount := rfl
@[simp] theorem State.overrun_argTable : s.overrun.argTable = s.argTable := rfl
@[simp] theorem State.overrun_cell (u : Variant) : s.overrun.cell u = s.cell u := by cases u <;> rfl

@[simp] theorem State.recordFault_arg0 (f : Fault) : (s.recordFault f).arg0 = s.arg0 := rfl
@[simp] theorem State.recordFault_arg1 (f : Fault) : (s.recordFault f).arg1 = s.arg1 := rfl
@[simp] theorem State.recordFault_arg2 (f : Fault) : (s.recordFault f).arg2 = s.arg2 := rfl
@[simp] theorem State.recordFault_arg3 (f : Fault) : (s.recordFault f).arg3 = s.arg3 := rfl
@[simp] theorem State.recordFault_arg4 (f : Fault) : (s.recordFault f).arg4 = s.arg4 := rfl
@[simp] theorem State.recordFault_res0 (f : Fault) : (s.recordFault f).res0 = s.res0 := rfl
@[simp] theorem State.recordFault_res1 (f : Fault) : (s.recordFault f).res1 = s.res1 := rfl
@[simp] theorem State.recordFault_res2 (f : Fault) : (s.recordFault f).res2 = s.res2 := rfl
@[simp] theorem State.recordFault_res3 (f : Fault) : (s.recordFault f).res3 = s.res3 := rfl
@[simp] theorem State.recordFault_ir (f : Fault) : (s.recordFault f).ir = s.ir := rfl
@[simp] theorem State.recordFault_busy (f : Fault) : (s.recordFault f).busy = s.busy := rfl
@[simp] theorem State.recordFault_ovr (f : Fault) : (s.recordFault f).ovr = s.ovr := rfl
@[simp] theorem State.recordFault_err (f : Fault) : (s.recordFault f).err = s.err := rfl
@[simp] theorem State.recordFault_lastop (f : Fault) : (s.recordFault f).lastop = s.lastop := rfl
@[simp] theorem State.recordFault_pstate (f : Fault) : (s.recordFault f).pstate = s.pstate := rfl
@[simp] theorem State.recordFault_pvalid (f : Fault) : (s.recordFault f).pvalid = s.pvalid := rfl
@[simp] theorem State.recordFault_pvar (f : Fault) : (s.recordFault f).pvar = s.pvar := rfl
@[simp] theorem State.recordFault_hseed (f : Fault) : (s.recordFault f).hseed = s.hseed := rfl
@[simp] theorem State.recordFault_hsec (f : Fault) : (s.recordFault f).hsec = s.hsec := rfl
@[simp] theorem State.recordFault_hvar (f : Fault) : (s.recordFault f).hvar = s.hvar := rfl
@[simp] theorem State.recordFault_hphase (f : Fault) : (s.recordFault f).hphase = s.hphase := rfl
@[simp] theorem State.recordFault_hlen (f : Fault) : (s.recordFault f).hlen = s.hlen := rfl
@[simp] theorem State.recordFault_hmsg (f : Fault) : (s.recordFault f).hmsg = s.hmsg := rfl
@[simp] theorem State.recordFault_cell0 (f : Fault) : (s.recordFault f).cell0 = s.cell0 := rfl
@[simp] theorem State.recordFault_cell1 (f : Fault) : (s.recordFault f).cell1 = s.cell1 := rfl
@[simp] theorem State.recordFault_answers (f : Fault) : (s.recordFault f).answers = s.answers := rfl
@[simp] theorem State.recordFault_effort (f : Fault) : (s.recordFault f).effort = s.effort := rfl
@[simp] theorem State.recordFault_inputs (f : Fault) : (s.recordFault f).inputs = s.inputs := rfl
@[simp] theorem State.recordFault_reads (f : Fault) : (s.recordFault f).reads = s.reads := rfl
@[simp] theorem State.recordFault_faults (f : Fault) : (s.recordFault f).faults = f :: s.faults := rfl
@[simp] theorem State.recordFault_freeCount (f : Fault) : (s.recordFault f).freeCount = s.freeCount := rfl
@[simp] theorem State.recordFault_argTable (f : Fault) : (s.recordFault f).argTable = s.argTable := rfl
@[simp] theorem State.recordFault_cell (f : Fault) (u : Variant) : (s.recordFault f).cell u = s.cell u := by cases u <;> rfl

@[simp] theorem State.setCell_arg0 (v : Variant) (c : Cell) : (s.setCell v c).arg0 = s.arg0 := by cases v <;> rfl
@[simp] theorem State.setCell_arg1 (v : Variant) (c : Cell) : (s.setCell v c).arg1 = s.arg1 := by cases v <;> rfl
@[simp] theorem State.setCell_arg2 (v : Variant) (c : Cell) : (s.setCell v c).arg2 = s.arg2 := by cases v <;> rfl
@[simp] theorem State.setCell_arg3 (v : Variant) (c : Cell) : (s.setCell v c).arg3 = s.arg3 := by cases v <;> rfl
@[simp] theorem State.setCell_arg4 (v : Variant) (c : Cell) : (s.setCell v c).arg4 = s.arg4 := by cases v <;> rfl
@[simp] theorem State.setCell_res0 (v : Variant) (c : Cell) : (s.setCell v c).res0 = s.res0 := by cases v <;> rfl
@[simp] theorem State.setCell_res1 (v : Variant) (c : Cell) : (s.setCell v c).res1 = s.res1 := by cases v <;> rfl
@[simp] theorem State.setCell_res2 (v : Variant) (c : Cell) : (s.setCell v c).res2 = s.res2 := by cases v <;> rfl
@[simp] theorem State.setCell_res3 (v : Variant) (c : Cell) : (s.setCell v c).res3 = s.res3 := by cases v <;> rfl
@[simp] theorem State.setCell_ir (v : Variant) (c : Cell) : (s.setCell v c).ir = s.ir := by cases v <;> rfl
@[simp] theorem State.setCell_busy (v : Variant) (c : Cell) : (s.setCell v c).busy = s.busy := by cases v <;> rfl
@[simp] theorem State.setCell_ovr (v : Variant) (c : Cell) : (s.setCell v c).ovr = s.ovr := by cases v <;> rfl
@[simp] theorem State.setCell_err (v : Variant) (c : Cell) : (s.setCell v c).err = s.err := by cases v <;> rfl
@[simp] theorem State.setCell_lastop (v : Variant) (c : Cell) : (s.setCell v c).lastop = s.lastop := by cases v <;> rfl
@[simp] theorem State.setCell_pstate (v : Variant) (c : Cell) : (s.setCell v c).pstate = s.pstate := by cases v <;> rfl
@[simp] theorem State.setCell_pvalid (v : Variant) (c : Cell) : (s.setCell v c).pvalid = s.pvalid := by cases v <;> rfl
@[simp] theorem State.setCell_pvar (v : Variant) (c : Cell) : (s.setCell v c).pvar = s.pvar := by cases v <;> rfl
@[simp] theorem State.setCell_hseed (v : Variant) (c : Cell) : (s.setCell v c).hseed = s.hseed := by cases v <;> rfl
@[simp] theorem State.setCell_hsec (v : Variant) (c : Cell) : (s.setCell v c).hsec = s.hsec := by cases v <;> rfl
@[simp] theorem State.setCell_hvar (v : Variant) (c : Cell) : (s.setCell v c).hvar = s.hvar := by cases v <;> rfl
@[simp] theorem State.setCell_hphase (v : Variant) (c : Cell) : (s.setCell v c).hphase = s.hphase := by cases v <;> rfl
@[simp] theorem State.setCell_hlen (v : Variant) (c : Cell) : (s.setCell v c).hlen = s.hlen := by cases v <;> rfl
@[simp] theorem State.setCell_hmsg (v : Variant) (c : Cell) : (s.setCell v c).hmsg = s.hmsg := by cases v <;> rfl
@[simp] theorem State.setCell_answers (v : Variant) (c : Cell) : (s.setCell v c).answers = s.answers := by cases v <;> rfl
@[simp] theorem State.setCell_effort (v : Variant) (c : Cell) : (s.setCell v c).effort = s.effort := by cases v <;> rfl
@[simp] theorem State.setCell_inputs (v : Variant) (c : Cell) : (s.setCell v c).inputs = s.inputs := by cases v <;> rfl
@[simp] theorem State.setCell_reads (v : Variant) (c : Cell) : (s.setCell v c).reads = s.reads := by cases v <;> rfl
@[simp] theorem State.setCell_faults (v : Variant) (c : Cell) : (s.setCell v c).faults = s.faults := by cases v <;> rfl
@[simp] theorem State.setCell_freeCount (v : Variant) (c : Cell) : (s.setCell v c).freeCount = s.freeCount := by cases v <;> rfl
@[simp] theorem State.setCell_argTable (v : Variant) (c : Cell) : (s.setCell v c).argTable = s.argTable := by cases v <;> rfl

/-- The cell that is written. -/
@[simp] theorem State.setCell_cell_same (v : Variant) (c : Cell) : (s.setCell v c).cell v = c := by cases v <;> rfl

/-- The other cell is left alone. -/
theorem State.setCell_cell_other {u v : Variant} (h : u ≠ v) (c : Cell) : (s.setCell v c).cell u = s.cell u := by
  cases u <;> cases v <;> first | rfl | exact absurd rfl h

/-- Writing a cell back changes nothing. -/
@[simp] theorem State.setCell_cell_self (v : Variant) : s.setCell v (s.cell v) = s := by cases v <;> rfl

@[simp] theorem State.resetBlock_arg0 : s.resetBlock.arg0 = State.reset.arg0 := rfl
@[simp] theorem State.resetBlock_arg1 : s.resetBlock.arg1 = State.reset.arg1 := rfl
@[simp] theorem State.resetBlock_arg2 : s.resetBlock.arg2 = State.reset.arg2 := rfl
@[simp] theorem State.resetBlock_arg3 : s.resetBlock.arg3 = State.reset.arg3 := rfl
@[simp] theorem State.resetBlock_arg4 : s.resetBlock.arg4 = State.reset.arg4 := rfl
@[simp] theorem State.resetBlock_res0 : s.resetBlock.res0 = State.reset.res0 := rfl
@[simp] theorem State.resetBlock_res1 : s.resetBlock.res1 = State.reset.res1 := rfl
@[simp] theorem State.resetBlock_res2 : s.resetBlock.res2 = State.reset.res2 := rfl
@[simp] theorem State.resetBlock_res3 : s.resetBlock.res3 = State.reset.res3 := rfl
@[simp] theorem State.resetBlock_ir : s.resetBlock.ir = State.reset.ir := rfl
@[simp] theorem State.resetBlock_busy : s.resetBlock.busy = State.reset.busy := rfl
@[simp] theorem State.resetBlock_ovr : s.resetBlock.ovr = State.reset.ovr := rfl
@[simp] theorem State.resetBlock_err : s.resetBlock.err = State.reset.err := rfl
@[simp] theorem State.resetBlock_lastop : s.resetBlock.lastop = State.reset.lastop := rfl
@[simp] theorem State.resetBlock_pstate : s.resetBlock.pstate = State.reset.pstate := rfl
@[simp] theorem State.resetBlock_pvalid : s.resetBlock.pvalid = State.reset.pvalid := rfl
@[simp] theorem State.resetBlock_pvar : s.resetBlock.pvar = State.reset.pvar := rfl
@[simp] theorem State.resetBlock_hseed : s.resetBlock.hseed = State.reset.hseed := rfl
@[simp] theorem State.resetBlock_hsec : s.resetBlock.hsec = State.reset.hsec := rfl
@[simp] theorem State.resetBlock_hvar : s.resetBlock.hvar = State.reset.hvar := rfl
@[simp] theorem State.resetBlock_hphase : s.resetBlock.hphase = State.reset.hphase := rfl
@[simp] theorem State.resetBlock_hlen : s.resetBlock.hlen = State.reset.hlen := rfl
@[simp] theorem State.resetBlock_hmsg : s.resetBlock.hmsg = State.reset.hmsg := rfl
@[simp] theorem State.resetBlock_cell0 : s.resetBlock.cell0 = State.reset.cell0 := rfl
@[simp] theorem State.resetBlock_cell1 : s.resetBlock.cell1 = State.reset.cell1 := rfl
@[simp] theorem State.resetBlock_answers : s.resetBlock.answers = State.reset.answers := rfl
@[simp] theorem State.resetBlock_effort : s.resetBlock.effort = State.reset.effort := rfl
@[simp] theorem State.resetBlock_inputs : s.resetBlock.inputs = s.inputs := rfl
@[simp] theorem State.resetBlock_reads : s.resetBlock.reads = s.reads := rfl
@[simp] theorem State.resetBlock_faults : s.resetBlock.faults = s.faults := rfl
@[simp] theorem State.resetBlock_freeCount : s.resetBlock.freeCount = s.freeCount := rfl
@[simp] theorem State.reset_arg0 : State.reset.arg0 = 0 := rfl
@[simp] theorem State.reset_arg1 : State.reset.arg1 = 0 := rfl
@[simp] theorem State.reset_arg2 : State.reset.arg2 = 0 := rfl
@[simp] theorem State.reset_arg3 : State.reset.arg3 = 0 := rfl
@[simp] theorem State.reset_arg4 : State.reset.arg4 = 0 := rfl
@[simp] theorem State.reset_res0 : State.reset.res0 = 0 := rfl
@[simp] theorem State.reset_res1 : State.reset.res1 = 0 := rfl
@[simp] theorem State.reset_res2 : State.reset.res2 = 0 := rfl
@[simp] theorem State.reset_res3 : State.reset.res3 = 0 := rfl
@[simp] theorem State.reset_ir : State.reset.ir = 0 := rfl
@[simp] theorem State.reset_busy : State.reset.busy = false := rfl
@[simp] theorem State.reset_ovr : State.reset.ovr = false := rfl
@[simp] theorem State.reset_err : State.reset.err = .success := rfl
@[simp] theorem State.reset_lastop : State.reset.lastop = 0 := rfl
@[simp] theorem State.reset_pstate : State.reset.pstate = 0 := rfl
@[simp] theorem State.reset_pvalid : State.reset.pvalid = false := rfl
@[simp] theorem State.reset_pvar : State.reset.pvar = .legacy := rfl
@[simp] theorem State.reset_hseed : State.reset.hseed = 0 := rfl
@[simp] theorem State.reset_hsec : State.reset.hsec = zeroTable := rfl
@[simp] theorem State.reset_hvar : State.reset.hvar = .legacy := rfl
@[simp] theorem State.reset_hphase : State.reset.hphase = .none := rfl
@[simp] theorem State.reset_hlen : State.reset.hlen = 0 := rfl
@[simp] theorem State.reset_hmsg : State.reset.hmsg = [] := rfl
@[simp] theorem State.reset_cell0 : State.reset.cell0 = ⟨false, zeroTable⟩ := rfl
@[simp] theorem State.reset_cell1 : State.reset.cell1 = ⟨false, zeroTable⟩ := rfl
@[simp] theorem State.reset_answers : State.reset.answers = [] := rfl
@[simp] theorem State.reset_effort : State.reset.effort = 0 := rfl
@[simp] theorem State.reset_inputs : State.reset.inputs = [] := rfl
@[simp] theorem State.reset_reads : State.reset.reads = [] := rfl
@[simp] theorem State.reset_faults : State.reset.faults = [] := rfl
@[simp] theorem State.reset_freeCount : State.reset.freeCount = 0 := rfl
@[simp] theorem State.resetBlock_cell (u : Variant) : s.resetBlock.cell u = ⟨false, zeroTable⟩ := by cases u <;> rfl

@[simp] theorem State.setArg_res0 (r : Reg) (x : Word) : (s.setArg r x).res0 = s.res0 := by cases r <;> rfl
@[simp] theorem State.setArg_res1 (r : Reg) (x : Word) : (s.setArg r x).res1 = s.res1 := by cases r <;> rfl
@[simp] theorem State.setArg_res2 (r : Reg) (x : Word) : (s.setArg r x).res2 = s.res2 := by cases r <;> rfl
@[simp] theorem State.setArg_res3 (r : Reg) (x : Word) : (s.setArg r x).res3 = s.res3 := by cases r <;> rfl
@[simp] theorem State.setArg_ir (r : Reg) (x : Word) : (s.setArg r x).ir = s.ir := by cases r <;> rfl
@[simp] theorem State.setArg_busy (r : Reg) (x : Word) : (s.setArg r x).busy = s.busy := by cases r <;> rfl
@[simp] theorem State.setArg_ovr (r : Reg) (x : Word) : (s.setArg r x).ovr = s.ovr := by cases r <;> rfl
@[simp] theorem State.setArg_err (r : Reg) (x : Word) : (s.setArg r x).err = s.err := by cases r <;> rfl
@[simp] theorem State.setArg_lastop (r : Reg) (x : Word) : (s.setArg r x).lastop = s.lastop := by cases r <;> rfl
@[simp] theorem State.setArg_pstate (r : Reg) (x : Word) : (s.setArg r x).pstate = s.pstate := by cases r <;> rfl
@[simp] theorem State.setArg_pvalid (r : Reg) (x : Word) : (s.setArg r x).pvalid = s.pvalid := by cases r <;> rfl
@[simp] theorem State.setArg_pvar (r : Reg) (x : Word) : (s.setArg r x).pvar = s.pvar := by cases r <;> rfl
@[simp] theorem State.setArg_hseed (r : Reg) (x : Word) : (s.setArg r x).hseed = s.hseed := by cases r <;> rfl
@[simp] theorem State.setArg_hsec (r : Reg) (x : Word) : (s.setArg r x).hsec = s.hsec := by cases r <;> rfl
@[simp] theorem State.setArg_hvar (r : Reg) (x : Word) : (s.setArg r x).hvar = s.hvar := by cases r <;> rfl
@[simp] theorem State.setArg_hphase (r : Reg) (x : Word) : (s.setArg r x).hphase = s.hphase := by cases r <;> rfl
@[simp] theorem State.setArg_hlen (r : Reg) (x : Word) : (s.setArg r x).hlen = s.hlen := by cases r <;> rfl
@[simp] theorem State.setArg_hmsg (r : Reg) (x : Word) : (s.setArg r x).hmsg = s.hmsg := by cases r <;> rfl
@[simp] theorem State.setArg_cell0 (r : Reg) (x : Word) : (s.setArg r x).cell0 = s.cell0 := by cases r <;> rfl
@[simp] theorem State.setArg_cell1 (r : Reg) (x : Word) : (s.setArg r x).cell1 = s.cell1 := by cases r <;> rfl
@[simp] theorem State.setArg_answers (r : Reg) (x : Word) : (s.setArg r x).answers = s.answers := by cases r <;> rfl
@[simp] theorem State.setArg_effort (r : Reg) (x : Word) : (s.setArg r x).effort = s.effort := by cases r <;> rfl
@[simp] theorem State.setArg_inputs (r : Reg) (x : Word) : (s.setArg r x).inputs = s.inputs := by cases r <;> rfl
@[simp] theorem State.setArg_reads (r : Reg) (x : Word) : (s.setArg r x).reads = s.reads := by cases r <;> rfl
@[simp] theorem State.setArg_faults (r : Reg) (x : Word) : (s.setArg r x).faults = s.faults := by cases r <;> rfl
@[simp] theorem State.setArg_freeCount (r : Reg) (x : Word) : (s.setArg r x).freeCount = s.freeCount := by cases r <;> rfl
@[simp] theorem State.setArg_cell (r : Reg) (x : Word) (u : Variant) : (s.setArg r x).cell u = s.cell u := by cases r <;> cases u <;> rfl

end Sys2Proof.Machine
end

