-- ==== Sys2Proof/Laws/Exec.lean ====
section
/-! SUPPORT. What the meanings and the shared operations can do, said once each: later proofs cite these and do not
unfold. -/

namespace Sys2Proof.Machine

/-- Every command answers a next state. -/
theorem exec_next (i : Instr) (s : State) : ∃ t, exec i s = .next t := by
  cases i <;> exact ⟨_, rfl⟩

/-- The three answers of a draw (44_random.md R240). -/
theorem generateSeed_cases (g : Supply) :
    (g.answers = [] ∧ generateSeed g = .waiting) ∨
      (∃ rest, g.answers = .fail :: rest ∧ generateSeed g = .raised .entropy) ∨
      ∃ e0 e1 e2 e3 e4 e5 e6 e7 rest, g.answers = .ok e0 e1 e2 e3 e4 e5 e6 e7 :: rest ∧
        generateSeed g = .got (leWord [e0, e1, e2, e3, e4, e5, e6, e7]) { g with answers := rest } := by
  obtain ⟨t, a⟩ := g
  match a with
  | [] => exact .inl ⟨rfl, rfl⟩
  | .fail :: rest => exact .inr (.inl ⟨rest, rfl, rfl⟩)
  | .ok e0 e1 e2 e3 e4 e5 e6 e7 :: rest =>
    exact .inr (.inr ⟨e0, e1, e2, e3, e4, e5, e6, e7, rest, rfl, rfl⟩)

theorem pnext_cases (P : Params) (s : State) :
    (s.pvalid = false ∧ pnext P s = s.finish .noctx) ∨
      (s.pvalid = true ∧ pnext P s =
        ({ s with pstate := (nextState P s.pvar s.pstate).1
                  res0 := (nextState P s.pvar s.pstate).2 } : State).finish .success) := by
  unfold pnext
  cases h : s.pvalid <;> simp

theorem habs_cases (c : BitVec 4) (s : State) :
    (∃ e, e ≠ .success ∧ habs c s = s.finish e) ∨
      (c.toNat ≤ 8 ∧ s.hphase = .opened ∧ s.hlen.toNat + c.toNat ≤ 2 ^ 64 - 1 ∧
        habs c s = (s.append (packedBytes s.arg0 c.toNat)).finish .success) := by
  unfold habs
  split
  · exact .inl ⟨.illegal, by decide, rfl⟩
  · next hc =>
    split
    · exact .inl ⟨.noctx, by decide, rfl⟩
    · exact .inl ⟨.seq, by decide, rfl⟩
    · next hp =>
      split
      · exact .inl ⟨.length, by decide, rfl⟩
      · next hl => exact .inr ⟨by simpa [BitVec.lt_def] using hc, hp, by omega, rfl⟩

theorem hfin_cases (P : Params) (s : State) :
    (s.hphase = .none ∧ hfin P s = s.finish .noctx) ∨
      (s.hphase ≠ .none ∧
        hfin P s = ({ s with res0 := s.digestNow P, hphase := .final } : State).finish .success) := by
  unfold hfin
  split
  · next h => exact .inl ⟨h, rfl⟩
  · next h => exact .inr ⟨h, rfl⟩

theorem rseed_cases (s : State) :
    (rseed s = s.stall) ∨ (rseed s = s.finish .entropy) ∨
      ∃ r, rseed s = ({ s with res0 := r } : State).finish .success := by
  unfold rseed
  obtain ⟨-, h⟩ | ⟨_, -, h⟩ | ⟨_, _, _, _, _, _, _, _, _, -, h⟩ := generateSeed_cases s.supply <;> rw [h]
  · exact .inl rfl
  · exact .inr (.inl rfl)
  · exact .inr (.inr ⟨_, rfl⟩)

theorem rsecret_cases (P : Params) (v : Variant) (s : State) :
    (rsecret P v s = s.stall) ∨
      (∃ e, generateSecret P v s.effort s.supply = .raised e ∧ rsecret P v s = s.finish e) ∨
      ∃ S g, generateSecret P v s.effort s.supply = .got S g ∧ rsecret P v s = (s.setResults S).finish .success := by
  unfold rsecret
  split
  · next S g h => exact .inr (.inr ⟨S, g, h, rfl⟩)
  · next e h => exact .inr (.inl ⟨e, h, rfl⟩)
  · exact .inl rfl

theorem hinitrf_cases (P : Params) (v : Variant) (s : State) :
    (hinitrf P v s = s.stall) ∨
      (∃ e, (generateSecret P v s.effort s.supply = .raised e ∨ e = .entropy) ∧ hinitrf P v s = s.finish e) ∨
      ∃ S g seed g', generateSecret P v s.effort s.supply = .got S g ∧ generateSeed g = .got seed g' ∧
        hinitrf P v s = (s.construct seed S v).finish .success := by
  unfold hinitrf
  split
  · next S g h =>
    obtain ⟨-, h'⟩ | ⟨_, -, h'⟩ | ⟨_, _, _, _, _, _, _, _, _, -, h'⟩ := generateSeed_cases g <;> rw [h']
    · exact .inl rfl
    · exact .inr (.inl ⟨.entropy, .inr rfl, rfl⟩)
    · exact .inr (.inr ⟨S, g, _, _, h, h', rfl⟩)
  · next e h => exact .inr (.inl ⟨e, .inl h, rfl⟩)
  · exact .inl rfl

theorem hinitrp_cases (P : Params) (v : Variant) (s : State) :
    (hinitrp P v s = s.stall) ∨
      (∃ e, initCell P v s.effort (s.cell v) s.supply = .raised e ∧ hinitrp P v s = s.finish e) ∨
      (∃ S g, initCell P v s.effort (s.cell v) s.supply = .got S g ∧ generateSeed g = .raised .entropy ∧
        hinitrp P v s = (s.setCell v ⟨true, S⟩).finish .entropy) ∨
      ∃ S g seed g', initCell P v s.effort (s.cell v) s.supply = .got S g ∧ generateSeed g = .got seed g' ∧
        hinitrp P v s = ((s.setCell v ⟨true, S⟩).construct seed S v).finish .success := by
  unfold hinitrp
  split
  · next S g h =>
    obtain ⟨-, h'⟩ | ⟨_, -, h'⟩ | ⟨_, _, _, _, _, _, _, _, _, -, h'⟩ := generateSeed_cases g <;> rw [h']
    · exact .inl rfl
    · exact .inr (.inr (.inl ⟨S, g, h, h', rfl⟩))
    · exact .inr (.inr (.inr ⟨S, g, _, _, h, h', rfl⟩))
  · next e h => exact .inr (.inl ⟨e, h, rfl⟩)
  · exact .inl rfl

/-- Every command completes a state that agrees in what no command writes, or goes on waiting, and only the commands that
draw entropy can wait (40_control.md R133, R134). -/
theorem exec_finish_or_stall {i : Instr} {s t : State} (h : exec i s = .next t) :
    (t = s.stall ∧ i.drawsEntropy = true) ∨
      ∃ (u : State) (e : Err), t = u.finish e ∧ u.ir = s.ir ∧ u.ovr = s.ovr ∧ u.inputs = s.inputs ∧
        u.reads = s.reads ∧ u.faults = s.faults ∧ u.freeCount = s.freeCount := by
  have fin : ∀ (u : State) (e : Err), t = u.finish e → (u.ir = s.ir ∧ u.ovr = s.ovr ∧ u.inputs = s.inputs ∧
      u.reads = s.reads ∧ u.faults = s.faults ∧ u.freeCount = s.freeCount) →
      (t = s.stall ∧ i.drawsEntropy = true) ∨
        ∃ (u : State) (e : Err), t = u.finish e ∧ u.ir = s.ir ∧ u.ovr = s.ovr ∧ u.inputs = s.inputs ∧
          u.reads = s.reads ∧ u.faults = s.faults ∧ u.freeCount = s.freeCount := fun u e h h' => .inr ⟨u, e, h, h'⟩
  cases i with
  | nop | mum | mix | pseed _ | hinit _ | hinitd _ | schk => cases h; exact fin _ _ rfl ⟨rfl, rfl, rfl, rfl, rfl, rfl⟩
  | pnext =>
    cases h
    obtain ⟨_, h⟩ | ⟨_, h⟩ := pnext_cases Config.params s <;> exact fin _ _ h ⟨rfl, rfl, rfl, rfl, rfl, rfl⟩
  | habs c =>
    cases h
    obtain ⟨_, _, h⟩ | ⟨_, _, _, h⟩ := habs_cases c s <;> exact fin _ _ h ⟨rfl, rfl, rfl, rfl, rfl, rfl⟩
  | hfin =>
    cases h
    obtain ⟨_, h⟩ | ⟨_, h⟩ := hfin_cases Config.params s <;> exact fin _ _ h ⟨rfl, rfl, rfl, rfl, rfl, rfl⟩
  | rseed =>
    cases h
    obtain h | h | ⟨_, h⟩ := rseed_cases s
    · exact .inl ⟨h, rfl⟩
    all_goals exact fin _ _ h ⟨rfl, rfl, rfl, rfl, rfl, rfl⟩
  | rsecret v =>
    cases h
    obtain h | ⟨_, _, h⟩ | ⟨_, _, _, h⟩ := rsecret_cases Config.params v s
    · exact .inl ⟨h, rfl⟩
    all_goals exact fin _ _ h ⟨rfl, rfl, rfl, rfl, rfl, rfl⟩
  | hinitrf v =>
    cases h
    obtain h | ⟨_, _, h⟩ | ⟨_, _, _, _, _, _, h⟩ := hinitrf_cases Config.params v s
    · exact .inl ⟨h, rfl⟩
    all_goals exact fin _ _ h ⟨rfl, rfl, rfl, rfl, rfl, rfl⟩
  | hinitrp v =>
    cases h
    obtain h | ⟨_, _, h⟩ | ⟨_, _, _, _, h⟩ | ⟨_, _, _, _, _, _, h⟩ := hinitrp_cases Config.params v s
    · exact .inl ⟨h, rfl⟩
    all_goals exact fin _ _ h (by simp)

/-- A secret from a cell is the valid cell's words, or a generated table (44_random.md R250). -/
theorem initCell_got {P : Params} {v : Variant} {k : Nat} {c : Cell} {g g' : Supply} {S : Table}
    (h : initCell P v k c g = .got S g') :
    (c.valid = true ∧ S = c.words ∧ g' = g) ∨ (c.valid = false ∧ generateSecret P v k g = .got S g') := by
  unfold initCell at h
  split at h
  · next hv => cases h; exact .inl ⟨hv, rfl, rfl⟩
  · next hv => exact .inr ⟨by simpa using hv, h⟩

/-- A register that an access reaches stands at its own offset, with a 64-bit access (20_memory.md R72, R73). -/
theorem Reg.reached_some {width off : Nat} {r : Reg} (h : Reg.reached width off = some r) :
    width = 64 ∧ off = r.offset := by
  unfold Reg.reached at h
  split at h
  · next hw =>
    exact ⟨hw.1, (by simpa using List.find?_some h : r.offset = off).symm⟩
  · cases h

/-- Every register is reached at its offset. -/
theorem Reg.reached_offset (r : Reg) : Reg.reached 64 r.offset = some r := by cases r <;> rfl

/-- Every answer of a HOST access (20_memory.md R74, R76). -/
theorem hostAccess_cases (a : Access) (s : State) :
    (a.legal = false ∧ hostAccess a s = .fault (.busError a)) ∨
      (∃ r, a = .read 64 r.offset ∧ hostAccess a s = .next (busRead r s)) ∨
      ∃ r x, a = .write 64 r.offset x ∧ r.writable = true ∧ hostAccess a s = .next (busWrite r x s) := by
  cases a with
  | read w o =>
    cases h : Reg.reached w o with
    | none => exact .inl (by simp [Access.legal, hostAccess, h])
    | some r =>
      obtain ⟨rfl, rfl⟩ := Reg.reached_some h
      exact .inr (.inl ⟨r, rfl, by simp [hostAccess, h]⟩)
  | write w o x =>
    cases h : Reg.reached w o with
    | none => exact .inl (by simp [Access.legal, hostAccess, h])
    | some r =>
      obtain ⟨rfl, rfl⟩ := Reg.reached_some h
      cases hw : r.writable with
      | false => exact .inl (by simp [Access.legal, hostAccess, h, hw])
      | true => exact .inr (.inr ⟨r, x, rfl, hw, by simp [hostAccess, h, hw]⟩)

/-- Every step of HOST that makes an access answers a next state: the access's effect, or the recorded fault and nothing
else (20_memory.md R74, 60_exceptions.md R305). -/
theorem hostStep_cases (a : Access) (s : State) :
    (a.legal = false ∧ hostStep a s = .next (s.recordFault (.busError a))) ∨
      (∃ r, a = .read 64 r.offset ∧ hostStep a s = .next (busRead r s)) ∨
      ∃ r x, a = .write 64 r.offset x ∧ r.writable = true ∧ hostStep a s = .next (busWrite r x s) := by
  unfold hostStep
  obtain ⟨hl, h⟩ | ⟨r, ha, h⟩ | ⟨r, x, ha, hw, h⟩ := hostAccess_cases a s <;> rw [h]
  · exact .inl ⟨hl, rfl⟩
  · exact .inr (.inl ⟨r, ha, rfl⟩)
  · exact .inr (.inr ⟨r, x, ha, hw, rfl⟩)

/-- No HOST access writes the faults. -/
@[simp] theorem busRead_faults (r : Reg) (s : State) : (busRead r s).faults = s.faults := rfl

@[simp] theorem busWrite_faults (r : Reg) (x : Word) (s : State) : (busWrite r x s).faults = s.faults := by
  cases r <;> simp only [busWrite, writeCmd, writeStatus, writeArg] <;> split <;> rfl

/-- Every effect of a HOST write (40_control.md R130 to R132, R138). -/
theorem busWrite_cases {r : Reg} (hw : r.writable = true) (x : Word) (s : State) :
    (busWrite r x s = s) ∨ (r ≠ .status ∧ s.busy = true ∧ busWrite r x s = s.overrun) ∨
      (r = .cmd ∧ s.busy = false ∧ busWrite r x s = s.issue x) ∨
      (r = .status ∧ x.getLsbD 1 = true ∧ busWrite r x s = { s with ovr := false }) ∨
      (r ≠ .cmd ∧ r ≠ .status ∧ s.busy = false ∧ busWrite r x s = s.setArg r x) := by
  cases r with
  | status =>
    by_cases hx : x.getLsbD 1 = true
    · exact .inr (.inr (.inr (.inl ⟨rfl, hx, if_pos hx⟩)))
    · exact .inl (if_neg hx)
  | cmd | arg0 | arg1 | arg2 | arg3 | arg4 => cases hb : s.busy <;> simp [busWrite, writeCmd, writeArg, hb]
  | _ => exact absurd hw (by decide)

/-- Every answer of CORE's turn (40_control.md R133). -/
theorem coreTurn_cases (s : State) :
    (s.busy = false ∧ coreTurn s = .next s) ∨
      (s.busy = true ∧ (∃ e, decode s.ir = .error e) ∧ coreTurn s = .next (s.finish .illegal)) ∨
      ∃ i t, s.busy = true ∧ decode s.ir = .ok i ∧ exec i s = .next t ∧ coreTurn s = .next t := by
  unfold coreTurn
  cases hb : s.busy with
  | false => exact .inl ⟨rfl, by simp⟩
  | true =>
    cases hd : decode s.ir with
    | error e => exact .inr (.inl ⟨rfl, ⟨e, rfl⟩, by simp⟩)
    | ok i =>
      obtain ⟨t, ht⟩ := exec_next i s
      exact .inr (.inr ⟨i, t, rfl, rfl, ht, by simp [ht]⟩)

/-- Every step is CORE's turn or the first of the moves to come. -/
theorem step_cases (s : State) :
    (s.inputs = [] ∧ step s = coreTurn s) ∨
      ∃ i rest, s.inputs = i :: rest ∧ step s = move i { s with inputs := rest } := by
  unfold step
  cases h : s.inputs with
  | nil => exact .inl ⟨rfl, rfl⟩
  | cons i rest => exact .inr ⟨i, rest, rfl, rfl⟩

/-- A run of k + 1 steps of any machine whose first step answers a next state is a run of k steps from it. -/
theorem coreRun_succ (M : Host.Core) {s t : M.State} (k : Nat) (h : M.step s = .next t) :
    M.run (k + 1) s = M.run k t := by
  rw [Host.Core.run, h]

/-- The same of WYCORE. -/
theorem run_succ {s t : State} (k : Nat) (h : step s = .next t) :
    Sys2Proof.core.run (k + 1) s = Sys2Proof.core.run k t :=
  coreRun_succ Sys2Proof.core k h

end Sys2Proof.Machine
end

