-- ==== Sys2Proof/Laws/Memory.lean ====
section
/-! SUPPORT. Every operation on the message space keeps it well formed (10_state.md R47, log 14), and so does every
command. -/

namespace Sys2Proof.Machine

theorem reset_wf : Memory.wf State.reset := rfl

theorem finish_wf {s : State} (h : Memory.wf s) (e : Err) : Memory.wf (s.finish e) := h

theorem stall_wf {s : State} (h : Memory.wf s) : Memory.wf s.stall := h

theorem construct_wf (s : State) (seed : Word) (S : Table) (v : Variant) : Memory.wf (s.construct seed S v) := rfl

theorem resetBlock_wf (s : State) : Memory.wf s.resetBlock := rfl

/-- An append keeps the length right wherever the new length still fits in `HLEN`, the condition E_LENGTH checks
(43_hash.md R207). -/
theorem append_wf {s : State} (h : Memory.wf s) (bs : List Byte) (hl : s.hlen.toNat + bs.length ≤ 2 ^ 64 - 1) :
    Memory.wf (s.append bs) := by
  simp only [Memory.wf, State.append_hlen, State.append_hmsg, List.length_append, BitVec.toNat_add,
    BitVec.toNat_ofNat] at h ⊢
  omega

/-- HABS keeps the message space well formed. -/
theorem habs_wf {s : State} (h : Memory.wf s) (c : BitVec 4) : Memory.wf (habs c s) := by
  obtain ⟨e, -, h'⟩ | ⟨-, -, hl, h'⟩ := habs_cases c s <;> rw [h']
  · exact finish_wf h e
  · exact finish_wf (append_wf h _ (by simpa [packedBytes] using hl)) .success

/-- Every command keeps the message space well formed. -/
theorem exec_wf {i : Instr} {s t : State} (h : Memory.wf s) (ht : exec i s = .next t) : Memory.wf t := by
  cases i with
  | nop | mum | mix | pseed _ | schk => cases ht; exact h
  | hinit _ | hinitd _ => cases ht; rfl
  | habs c => cases ht; exact habs_wf h c
  | pnext => cases ht; obtain ⟨-, h'⟩ | ⟨-, h'⟩ := pnext_cases Config.params s <;> rw [h'] <;> exact h
  | hfin => cases ht; obtain ⟨-, h'⟩ | ⟨-, h'⟩ := hfin_cases Config.params s <;> rw [h'] <;> exact h
  | rseed => cases ht; obtain h' | h' | ⟨_, h'⟩ := rseed_cases s <;> rw [h'] <;> exact h
  | rsecret v =>
    cases ht
    obtain h' | ⟨_, -, h'⟩ | ⟨_, _, -, h'⟩ := rsecret_cases Config.params v s <;> rw [h'] <;> exact h
  | hinitrf v =>
    cases ht
    obtain h' | ⟨_, -, h'⟩ | ⟨_, _, _, _, -, -, h'⟩ := hinitrf_cases Config.params v s <;> rw [h']
    · exact h
    · exact h
    · rfl
  | hinitrp v =>
    cases ht
    obtain h' | ⟨_, -, h'⟩ | ⟨_, _, -, -, h'⟩ | ⟨_, _, _, _, -, -, h'⟩ := hinitrp_cases Config.params v s <;> rw [h']
    · exact h
    · exact h
    · cases v <;> exact h
    · rfl

end Sys2Proof.Machine
end

