-- ==== Sys2Proof/Laws/PerInstr.lean ====
section
/-! SUPPORT. The family of statements about every command as syntax: the fields of its word (30_encoding.md R101, R102). -/

namespace Sys2Proof.Laws.WordFields

/-- The word of a command carries the command's opcode, variant bit and count, and zero in every reserved field. -/
def Statement (i : Instr) : Prop :=
  opField (encode i) = i.op.code ∧ vField (encode i) = i.vBit ∧ cntField (encode i) = i.cnt ∧
    z7Field (encode i) = false ∧ z31Field (encode i) = 0 ∧ z63Field (encode i) = 0

theorem nop : Statement .nop := ⟨rfl, rfl, rfl, rfl, rfl, rfl⟩

theorem mum : Statement .mum := ⟨rfl, rfl, rfl, rfl, rfl, rfl⟩

theorem mix : Statement .mix := ⟨rfl, rfl, rfl, rfl, rfl, rfl⟩

theorem pseed (v : Variant) : Statement (.pseed v) := by cases v <;> exact ⟨rfl, rfl, rfl, rfl, rfl, rfl⟩

theorem pnext : Statement .pnext := ⟨rfl, rfl, rfl, rfl, rfl, rfl⟩

theorem hinit (v : Variant) : Statement (.hinit v) := by cases v <;> exact ⟨rfl, rfl, rfl, rfl, rfl, rfl⟩

theorem hinitd (v : Variant) : Statement (.hinitd v) := by cases v <;> exact ⟨rfl, rfl, rfl, rfl, rfl, rfl⟩

theorem hinitrf (v : Variant) : Statement (.hinitrf v) := by cases v <;> exact ⟨rfl, rfl, rfl, rfl, rfl, rfl⟩

theorem hinitrp (v : Variant) : Statement (.hinitrp v) := by cases v <;> exact ⟨rfl, rfl, rfl, rfl, rfl, rfl⟩

theorem habs (c : BitVec 4) : Statement (.habs c) := by unfold Statement; revert c; decide

theorem hfin : Statement .hfin := ⟨rfl, rfl, rfl, rfl, rfl, rfl⟩

theorem rseed : Statement .rseed := ⟨rfl, rfl, rfl, rfl, rfl, rfl⟩

theorem rsecret (v : Variant) : Statement (.rsecret v) := by cases v <;> exact ⟨rfl, rfl, rfl, rfl, rfl, rfl⟩

theorem schk : Statement .schk := ⟨rfl, rfl, rfl, rfl, rfl, rfl⟩

end Sys2Proof.Laws.WordFields
end

