-- ==== Sys2Proof/Laws/Prime.lean ====
section
/-! SUPPORT. `isPrime` is the primality predicate (44_random.md R248): each branch of the shortcut is sound. -/

namespace Sys2Proof.Laws

open Sys2Proof.Machine

theorem powMod_eq (m f b e : Nat) (he : e < 2 ^ f) : powMod m f b e = b ^ e % m := by
  induction f generalizing b e with
  | zero => obtain rfl : e = 0 := by omega
            simp [powMod]
  | succ f ih =>
    have hlt : e / 2 < 2 ^ f := by rw [pow_succ] at he; omega
    have hsq : (b * b % m) ^ (e / 2) % m = b ^ (2 * (e / 2)) % m := by
      rw [← Nat.pow_mod, ← pow_two, ← pow_mul]
    rw [powMod, ih _ _ hlt, hsq]
    split
    · next hodd =>
      have h2 : e = 2 * (e / 2) + 1 := by omega
      conv_rhs => rw [h2, pow_succ, Nat.mul_comm, Nat.mul_mod]
      simp [Nat.mul_mod]
    · next hev =>
      have h2 : e = 2 * (e / 2) := by omega
      conv_rhs => rw [h2]

theorem smallPrimes_prime : ∀ q ∈ smallPrimes, Nat.Prime q := by
  simp only [smallPrimes, List.forall_mem_cons, List.not_mem_nil, false_imp_iff, implies_true, and_true]
  norm_num

theorem natCast_pow_eq_one_iff {n a k : Nat} (hn : 1 < n) : (a : ZMod n) ^ k = 1 ↔ a ^ k % n = 1 := by
  have h := ZMod.natCast_eq_natCast_iff' (a ^ k) 1 n
  rw [Nat.mod_eq_of_lt hn] at h
  simpa using h

/-- Fermat's test refuses no prime. -/
theorem fermat_of_prime {n : Nat} (hp : n.Prime) (h2 : ¬ n % 2 = 0) (hlt : n < 2 ^ 64) :
    powMod n 64 2 (n - 1) = 1 := by
  have : Fact n.Prime := ⟨hp⟩
  rw [powMod_eq _ _ _ _ (by omega), ← natCast_pow_eq_one_iff hp.one_lt]
  refine ZMod.pow_card_sub_one_eq_one ?_
  rw [Ne, ZMod.natCast_eq_zero_iff]
  intro hd
  have := (Nat.prime_dvd_prime_iff_eq hp Nat.prime_two).1 hd
  omega

/-- A Lucas witness for the full list of prime factors of n - 1 proves that n is prime. -/
theorem prime_of_lucasWitness {n a : Nat} {qs : List Nat} (hn : 3 < n) (hlt : n < 2 ^ 64)
    (hprod : qs.prod = n - 1) (hqs : ∀ q ∈ qs, q.Prime) (hw : lucasWitness n qs a = true) : n.Prime := by
  simp only [lucasWitness, Bool.and_eq_true, beq_iff_eq, List.all_eq_true, bne_iff_ne] at hw
  rw [powMod_eq _ _ _ _ (by omega)] at hw
  refine lucas_primality n (a : ZMod n) ((natCast_pow_eq_one_iff (by omega)).2 hw.1) fun q hq hdvd => ?_
  have hmem : q ∈ qs := by
    rw [← hprod, Prime.dvd_prod_iff hq.prime] at hdvd
    obtain ⟨r, hr, hqr⟩ := hdvd
    rwa [(Nat.prime_dvd_prime_iff_eq hq (hqs r hr)).1 hqr]
  have hne := hw.2 q hmem
  rw [powMod_eq _ _ _ _ (lt_of_le_of_lt (Nat.div_le_self _ _) (by omega))] at hne
  rwa [Ne, natCast_pow_eq_one_iff (by omega)]

theorem prime_of_certified {k n : Nat} (h : certified k n = true) : n.Prime := by
  induction k generalizing n with
  | zero => simp [certified] at h
  | succ k ih =>
    simp only [certified, Bool.or_eq_true, List.contains_iff_mem, Bool.and_eq_true, decide_eq_true_eq,
      beq_iff_eq, List.all_eq_true, List.any_eq_true] at h
    rcases h with h | ⟨⟨⟨⟨h3, hlt⟩, hprod⟩, hall⟩, a, -, hw⟩
    · exact smallPrimes_prime n h
    · exact prime_of_lucasWitness h3 hlt hprod (fun q hq => ih (hall q hq)) hw

/-- The shortcut never gives a wrong answer on a 64-bit number. -/
theorem primeShortcut_sound {n : Nat} (hlt : n < 2 ^ 64) {b : Bool} (h : primeShortcut n = some b) :
    b = true ↔ n.Prime := by
  unfold primeShortcut at h
  split at h
  · next h2 =>
    obtain rfl := Option.some.inj h
    simp only [Bool.false_eq_true, false_iff]
    exact fun hp => absurd hp.two_le (by omega)
  · next h2 =>
    split at h
    · next q hq =>
      obtain rfl := Option.some.inj h
      have hmem := smallPrimes_prime q (List.mem_of_find?_eq_some hq)
      have hdvd : q ∣ n := Nat.dvd_of_mod_eq_zero (by simpa using List.find?_some hq)
      simp only [beq_iff_eq]
      constructor
      · rintro rfl; exact hmem
      · exact fun hp => ((Nat.prime_dvd_prime_iff_eq hmem hp).1 hdvd).symm
    · next hnone =>
      have hodd : ¬ n % 2 = 0 := by
        have := List.find?_eq_none.1 hnone 2 (by decide)
        simpa using this
      split at h
      · next hf =>
        obtain rfl := Option.some.inj h
        simp only [Bool.false_eq_true, false_iff]
        exact fun hp => hf (fermat_of_prime hp hodd hlt)
      · split at h
        · next hc =>
          obtain rfl := Option.some.inj h
          simpa using prime_of_certified hc
        · cases h

/-- `isPrime` is the predicate of 44_random.md R248. -/
theorem isPrime_iff (w : Word) : isPrime w = true ↔ w.toNat.Prime := by
  unfold isPrime
  split
  · next b hb => exact primeShortcut_sound w.isLt hb
  · simp

end Sys2Proof.Laws
end

