-- ==== Sys2Proof/Laws/Random.lean ====
section
/-! SUPPORT. What the candidate loop of GenerateSecret does with entropy (44_random.md R245, R246, R258). -/

namespace Sys2Proof.Machine

/-- The answer of a word is read back as that word (20_memory.md R87). -/
@[simp] theorem generateSeed_ofWord (w t : Word) (as : List Answer) :
    generateSeed ⟨t, Answer.ofWord w :: as⟩ = .got w ⟨t, as⟩ := by
  simp only [generateSeed, Answer.ofWord, leWord_byteOf]

/-- A SEEDED candidate uses the private stream only (44_random.md R246): it always comes, whatever the answers. -/
theorem candidateFrom_seeded {P : Params} (hs : P.secretSrc = .seeded) (v : Variant) (bytes : List Byte) (k : Nat) :
    ∀ (j : Nat) (w t : Word), ∃ w' t', ∀ as, candidateFrom P v bytes k j w ⟨t, as⟩ = .got w' ⟨t', as⟩ := by
  induction k with
  | zero => exact fun _ w t => ⟨w, t, fun _ => rfl⟩
  | succ k ih =>
    intro j w t
    obtain ⟨w', t', h⟩ := ih (j + 1)
      (w ||| ((selectByte bytes (nextState P v t).2).setWidth 64 <<< (8 * j))) (nextState P v t).1
    exact ⟨w', t', fun as => by simp only [candidateFrom, randomWord, hs, h]⟩

/-- Where the candidate loop ends it has built nothing more: the answers pass through. -/
theorem secretEnd_got {P : Params} {count : Nat} {acc : List Word} {g g' : Supply} {S : Table}
    (h : secretEnd P count acc g = some (.got S g')) :
    g' = g ∧ acc = tableList S ∧ ∀ g'', secretEnd P count acc g'' = some (.got S g'') := by
  unfold secretEnd at h
  split at h
  · cases h; exact ⟨rfl, rfl, fun _ => rfl⟩
  · split at h <;> cases h

/-- A SEEDED candidate loop neither reads nor changes the answers (44_random.md R258). -/
theorem secretLoop_seeded {P : Params} (hs : P.secretSrc = .seeded) {v : Variant} {bytes : List Byte} {k : Nat} :
    ∀ {count : Nat} {acc : List Word} {t : Word} {as : List Answer} {S : Table} {g : Supply},
      secretLoop P v bytes k count acc ⟨t, as⟩ = .got S g →
      g.answers = as ∧ ∀ as', secretLoop P v bytes k count acc ⟨t, as'⟩ = .got S ⟨g.stream, as'⟩ := by
  induction k with
  | zero =>
    intro count acc t as S g h
    simp only [secretLoop] at h ⊢
    cases he : secretEnd P count acc ⟨t, as⟩ with
    | none => simp [he] at h
    | some d =>
      simp only [he, Option.getD_some] at h
      subst h
      obtain ⟨rfl, -, h'⟩ := secretEnd_got he
      exact ⟨rfl, fun as' => by rw [h']; rfl⟩
  | succ k ih =>
    intro count acc t as S g h
    rw [secretLoop] at h
    cases he : secretEnd P count acc ⟨t, as⟩ with
    | some d =>
      simp only [he] at h
      subst h
      obtain ⟨rfl, -, h'⟩ := secretEnd_got he
      exact ⟨rfl, fun as' => by rw [secretLoop, h']⟩
    | none =>
      have hn : ∀ g', secretEnd P count acc g' = none := by
        intro g'
        unfold secretEnd at he ⊢
        split at he
        · cases he
        · exact he
      obtain ⟨w, t', hc⟩ := candidateFrom_seeded hs v bytes 8 0 0 t
      simp only [he, candidate, hc] at h
      obtain ⟨h1, h2⟩ := ih h
      exact ⟨h1, fun as' => by rw [secretLoop, hn]; simp only [candidate, hc, h2]⟩

/-- SEEDED GenerateSecret makes exactly one draw, and what it returns does not depend on the answers after it
(44_random.md R252, R258). -/
theorem generateSecret_seeded {P : Params} (hs : P.secretSrc = .seeded) {v : Variant} {k : Nat} {t : Word} {a : Answer}
    {as : List Answer} {S : Table} {g : Supply} (h : generateSecret P v k ⟨t, a :: as⟩ = .got S g) :
    g.answers = as ∧ ∀ as', generateSecret P v k ⟨t, a :: as'⟩ = .got S ⟨g.stream, as'⟩ := by
  cases a with
  | fail => simp [generateSecret, hs, generateSeed] at h
  | ok e0 e1 e2 e3 e4 e5 e6 e7 =>
    simp only [generateSecret, hs, generateSeed] at h ⊢
    exact secretLoop_seeded hs h

end Sys2Proof.Machine
end

