-- ==== Sys2Proof/Tests/Slice0.lean ====
section
/-! SUPPORT. Tests of the model against the spec's own words and examples (95_test_vectors.md where a test names a vector),
and for every statement with hypotheses a witness that meets them. -/

open Sys2Proof Sys2Proof.Machine

namespace Sys2Proof.Tests

set_option Elab.async false

/-- The state a result answers, if it does. -/
def after : Result → Option State
  | .next t => some t
  | .fault _ => none
  | .refused _ => none

/-- The state after reset with a command word in flight. -/
def flight (w : Word) : State := { State.reset with ir := w, busy := true }

/-- What a test looks at in an answer. -/
def sees {α : Type} (r : Result) (f : State → α) : Option α := (after r).map f

/-- The answer `OK(11 22 33 44 55 66 77 88)` of the spec's examples. -/
def ok1122 : Answer := .ok 0x11 0x22 0x33 0x44 0x55 0x66 0x77 0x88

/-! ### Which commands are well formed -/

theorem test_wf_habs_9_refused : (Instr.habs 9).wellFormed = false := by decide

theorem test_wf_habs_15_refused : (Instr.habs 15).wellFormed = false := by decide

theorem test_wf_habs_8_accepted : (Instr.habs 8).wellFormed = true := by decide

/-! ### Decoding: words written out from 30_encoding.md R101 and R102 as Z63, Z31, CNT, Z7, V, OP -/

theorem test_decode_nop : decode (0#32 ++ 0#20 ++ 0b0000#4 ++ 0#1 ++ 0#1 ++ 0b000000#6) = .ok .nop := by decide

theorem test_decode_mum : decode (0#32 ++ 0#20 ++ 0b0000#4 ++ 0#1 ++ 0#1 ++ 0b000001#6) = .ok .mum := by decide

theorem test_decode_mix : decode (0#32 ++ 0#20 ++ 0b0000#4 ++ 0#1 ++ 0#1 ++ 0b000010#6) = .ok .mix := by decide

theorem test_decode_pseed_v0 :
    decode (0#32 ++ 0#20 ++ 0b0000#4 ++ 0#1 ++ 0#1 ++ 0b001000#6) = .ok (.pseed .legacy) := by decide

theorem test_decode_pseed_v1 :
    decode (0#32 ++ 0#20 ++ 0b0000#4 ++ 0#1 ++ 1#1 ++ 0b001000#6) = .ok (.pseed .current) := by decide

theorem test_decode_pnext : decode (0#32 ++ 0#20 ++ 0b0000#4 ++ 0#1 ++ 0#1 ++ 0b001001#6) = .ok .pnext := by decide

theorem test_decode_hinit :
    decode (0#32 ++ 0#20 ++ 0b0000#4 ++ 0#1 ++ 1#1 ++ 0b010000#6) = .ok (.hinit .current) := by decide

theorem test_decode_hinitd :
    decode (0#32 ++ 0#20 ++ 0b0000#4 ++ 0#1 ++ 0#1 ++ 0b010001#6) = .ok (.hinitd .legacy) := by decide

theorem test_decode_hinitrf :
    decode (0#32 ++ 0#20 ++ 0b0000#4 ++ 0#1 ++ 1#1 ++ 0b010010#6) = .ok (.hinitrf .current) := by decide

theorem test_decode_hinitrp :
    decode (0#32 ++ 0#20 ++ 0b0000#4 ++ 0#1 ++ 0#1 ++ 0b010011#6) = .ok (.hinitrp .legacy) := by decide

theorem test_decode_habs :
    decode (0#32 ++ 0#20 ++ 0b0101#4 ++ 0#1 ++ 0#1 ++ 0b010100#6) = .ok (.habs 5) := by decide

theorem test_decode_hfin : decode (0#32 ++ 0#20 ++ 0b0000#4 ++ 0#1 ++ 0#1 ++ 0b010101#6) = .ok .hfin := by decide

theorem test_decode_rseed : decode (0#32 ++ 0#20 ++ 0b0000#4 ++ 0#1 ++ 0#1 ++ 0b011000#6) = .ok .rseed := by decide

theorem test_decode_rsecret :
    decode (0#32 ++ 0#20 ++ 0b0000#4 ++ 0#1 ++ 1#1 ++ 0b011001#6) = .ok (.rsecret .current) := by decide

theorem test_decode_schk : decode (0#32 ++ 0#20 ++ 0b0000#4 ++ 0#1 ++ 0#1 ++ 0b011010#6) = .ok .schk := by decide

/-- The illegal words of 95_test_vectors.md section 3.5. -/
theorem test_decode_illegal_words :
    ([0x3, 0x3F, 0x80, 0x1009, 0x100000009, 0x41, 0x49, 0x54, 0x100, 0x848, 0x914, 0xF14] : List Word).all
      (fun w => match decode w with | .ok _ => false | .error _ => true) = true := by decide

/-- A command written as bytes, least significant first (20_memory.md R77): 0x0814 is HABS 8. -/
theorem test_decode_bytes_little_endian : decodeBytes [0x14, 0x08, 0, 0, 0, 0, 0, 0] = .ok (.habs 8) := by decide

theorem test_decode_seven_bytes_refused : decodeBytes [0x14, 0x08, 0, 0, 0, 0, 0] = .error .notOneWord := by decide

theorem test_decode_table_word : decodeTableWord 64 0x48 = some (.pseed .current) := by decide

/-- 30_encoding.md R110 and R111: assembler texts and their words; the suffix is mandatory, and 9 is no count. -/
theorem test_assembler_texts :
    (["HABS 8", "PSEED.v1", "RSECRET.v0", "PSEED", "HABS 9", "NOP.v0"].map fun t => (Instr.ofAsm t).map encode) =
      [some 0x814, some 0x48, some 0x19, none, none, none] := by decide +kernel

theorem test_legal_commands_are_28 : Instr.legal.length = 28 ∧ Instr.legal.all Instr.wellFormed = true := by decide

/-! ### One step of each command -/

/-- E-14: NOP after a failed PNEXT clears `ERR`. -/
theorem test_nop_clears_err :
    sees (coreTurn { flight 0x00 with err := .noctx, lastop := 0x09 }) State.status = some 0 := by decide

/-- NOP does not clear `OVR` (40_control.md R137). -/
theorem test_nop_keeps_ovr : sees (coreTurn { flight 0x00 with ovr := true }) State.status = some 2 := by decide

/-- M-8. -/
theorem test_mum_halves :
    sees (coreTurn { flight 0x01 with arg0 := 0x0123456789abcdef, arg1 := 0xfedcba9876543210, res2 := 7 })
      (fun t => (t.res0, t.res1, t.res2)) = some (0x2236d88fe5618cf0, 0x0121fa00ad77d742, 7) := by decide

/-- M-3. -/
theorem test_mum_largest :
    sees (coreTurn { flight 0x01 with arg0 := 0xffffffffffffffff, arg1 := 0xffffffffffffffff })
      (fun t => (t.res0, t.res1)) = some (1, 0xfffffffffffffffe) := by decide

/-- M-9, with an older high half in `RES1` (70_reset_and_hazards.md R346). -/
theorem test_mix_folds_and_keeps_res1 :
    sees (coreTurn { flight 0x02 with arg0 := 0xdeadbeefcafebabe, arg1 := 0x0123456789abcdef, res1 := 0x0121fa00ad77d742 })
      (fun t => (t.res0, t.res1)) = some (0x7e4bd22a04f6dd7f, 0x0121fa00ad77d742) := by decide

/-- The example of 42_prng.md R171. -/
theorem test_pseed_current :
    sees (coreTurn { flight 0x48 with arg0 := 1 }) (fun t => (t.pstate, t.pvalid, t.pvar)) = some (1, true, .current) := by
  decide

/-- P-7, step 1. -/
theorem test_pnext_current :
    sees (coreTurn { flight 0x09 with pstate := 1, pvalid := true, pvar := .current }) (fun t => (t.res0, t.pstate, t.status))
      = some (0xa833bdcdb6d1beb1, 0x2d358dccaa6c78a6, 0x900) := by decide

/-- E-2. -/
theorem test_pnext_unseeded : sees (coreTurn (flight 0x09)) (fun t => (t.status, t.res0)) = some (0x920, 0) := by decide

/-- 43_hash.md R205: which operand is which secret word. -/
theorem test_hinit_operands :
    sees (coreTurn { flight 0x50 with arg0 := 9, arg1 := 1, arg2 := 2, arg3 := 3, arg4 := 4 })
      (fun t => (t.hseed, t.hsec, t.hvar)) = some (9, ⟨1, 2, 3, 4⟩, .current) := by decide

/-- 43_hash.md R205: HINIT from phase FINAL discards the old message. -/
theorem test_hinit_discards :
    sees (coreTurn { flight 0x10 with hphase := .final, hmsg := [5], hlen := 1 })
      (fun t => (t.hphase, t.hmsg, t.hlen)) = some (.opened, [], 0) := by decide

/-- P2: `CFG` after HINITD.v1. -/
theorem test_hinitd_cfg : sees (coreTurn (flight 0x51)) (fun t => t.cfg Params.default) = some 0x14 := by decide

/-- The example of 43_hash.md R207. -/
theorem test_habs_two_bytes :
    sees (coreTurn { flight 0x214 with arg0 := 0xffff6463, hphase := .opened, hmsg := [0x61, 0x62], hlen := 2 })
      (fun t => (t.hmsg, t.hlen)) = some ([0x61, 0x62, 0x63, 0x64], 4) := by decide

/-- E-10: E_SEQ before E_LENGTH. -/
theorem test_habs_seq_before_length :
    sees (coreTurn { flight 0x114 with hphase := .final, hlen := 0xffffffffffffffff }) State.status = some 0x1430 := by decide

/-- X1: the digest of "abcd", v1. -/
theorem test_hfin_abcd :
    sees (coreTurn { flight 0x15 with
        hsec := Params.default.current.defaultSecret, hvar := .current, hphase := .opened,
        hmsg := [0x61, 0x62, 0x63, 0x64], hlen := 4 }) (fun t => (t.res0, t.hphase)) =
      some (0x6d9a9834037410eb, .final) := by decide

/-- E-6. -/
theorem test_hfin_no_context : sees (coreTurn (flight 0x15)) State.status = some 0x1520 := by decide

/-- The example of 44_random.md R251. -/
theorem test_rseed_little_endian :
    sees (coreTurn { flight 0x18 with answers := [ok1122] }) (fun t => (t.res0, t.status)) =
      some (0x8877665544332211, 0x1800) := by decide

/-- E-11. -/
theorem test_rseed_fail :
    sees (coreTurn { flight 0x18 with answers := [.fail], res0 := 3 }) (fun t => (t.res0, t.status)) = some (3, 0x1850) := by
  decide

/-- K5: the legacy default table is not good. -/
theorem test_schk_legacy_default :
    sees (coreTurn { flight 0x1A with
        arg1 := 0xa0761d6478bd642f, arg2 := 0xe7037ed1a0b428db, arg3 := 0x8ebc6af09c88c6e3,
        arg4 := 0x589965cc75374cc3, res0 := 1 }) (fun t => t.res0) = some 0 := by decide +kernel

/-! ### GenerateSecret -/

/-- A seed word for which GenerateSecret needs few candidates. -/
def quick : Answer := .ok 0xAC 0x89 0x1F 0 0 0 0 0

/-- What that seed word gives with variant 1: 28 candidates (a program outside the model, from the pseudocode of
44_random.md R245 to R248). -/
def quickTable : Table := ⟨0xca694799b45aa633, 0x8b5a53784b17b4c5, 0x668b59aad4e43555, 0x6666334b1e2b2be1⟩

/-- The private stream word after 28 candidates of 8 advances. -/
def quickStream : Word := 2066860 + 224 * 0x2d358dccaa6c78a5

theorem test_generate_quick_alone :
    generateSecret Config.params .current 31 ⟨0, [quick]⟩ = .got quickTable ⟨quickStream, []⟩ := by decide +kernel

/-- The same with more answers behind the seed word: they are left for the hash seed. -/
theorem test_generate_quick (as : List Answer) :
    generateSecret Config.params .current 31 ⟨0, quick :: as⟩ = .got quickTable ⟨quickStream, as⟩ :=
  (generateSecret_seeded rfl test_generate_quick_alone).2 as

/-- A state with RSECRET.v1, HINITRF.v1 or HINITRP.v1 in flight, the seed word answered, and time enough. -/
def quickFlight (w : Word) (as : List Answer) : State := { flight w with answers := quick :: as, effort := 31 }

/-- GenerateSecret as the command in flight calls it. -/
theorem quickFlight_generates (w : Word) (as : List Answer) :
    generateSecret Config.params .current (quickFlight w as).effort (quickFlight w as).supply =
      .got quickTable ⟨quickStream, as⟩ := test_generate_quick as

/-- RSECRET.v1 writes the table, and leaves the cell alone (44_random.md R252). -/
theorem test_rsecret_table :
    sees (exec (.rsecret .current) (quickFlight 0x59 []))
      (fun t => ((⟨t.res0, t.res1, t.res2, t.res3⟩ : Table), t.cell1.valid, t.status)) =
      some (quickTable, false, 0x1900) := by
  rw [exec, execRsecret, rsecret, quickFlight_generates]; decide

/-- SCHK of a table that RSECRET gives is 1 (44_random.md R253, R258). -/
theorem test_schk_good :
    sees (coreTurn { flight 0x1A with
        arg1 := 0xca694799b45aa633, arg2 := 0x8b5a53784b17b4c5, arg3 := 0x668b59aad4e43555,
        arg4 := 0x6666334b1e2b2be1 }) (fun t => (t.res0, t.status)) = some (1, 0x1A00) := by decide +kernel

/-- RSECRET with no time for all candidates goes on waiting (44_random.md R249). -/
theorem test_rsecret_waits :
    sees (exec (.rsecret .current) { quickFlight 0x59 [] with effort := 1 }) (fun t => (t.busy, t.res0)) =
      some (true, 0) := by decide +kernel

/-- The shape of the example of 44_random.md R254: secret first, then the seed. -/
theorem test_hinitrf_secret_then_seed :
    sees (exec (.hinitrf .current) (quickFlight 0x52 [ok1122])) (fun t => (t.hseed, t.hsec, t.hphase)) =
      some (0x8877665544332211, quickTable, .opened) := by
  rw [exec, execHinitrf, hinitrf, quickFlight_generates]; decide

/-- 95_test_vectors.md section 3.4.6: a failed seed draw leaves the context alone. -/
theorem test_hinitrf_seed_fails :
    sees (exec (.hinitrf .current) (quickFlight 0x52 [.fail])) (fun t => (t.hsec, t.hphase, t.status)) =
      some (zeroTable, .none, 0x1250) := by
  rw [exec, execHinitrf, hinitrf, quickFlight_generates]; decide

/-- P6: HINITRP whose seed draw fails keeps the cell: the cell, `STATUS` and `CFG`. -/
theorem test_hinitrp_keeps_cell :
    sees (exec (.hinitrp .current) (quickFlight 0x53 [.fail])) (fun t => (t.cell1, t.status, t.cfg Params.default)) =
      some (⟨true, quickTable⟩, 0x1350, 0x40) := by
  rw [exec, execHinitrp, hinitrp, initCell, if_neg (by decide), quickFlight_generates]; decide

/-- HINITRP with the seed draw unanswered: nothing is committed yet (40_control.md R133, R134). -/
theorem witness_Hinitrp_seed_unanswered :
    sees (exec (.hinitrp .current) (quickFlight 0x53 [])) (fun t => (t.busy, t.cell1.valid, t.hphase)) =
      some (true, false, .none) := by
  rw [exec, execHinitrp, hinitrp, initCell, if_neg (by decide), quickFlight_generates]; decide

/-- HINITRP on a set cell: one draw, for the seed (44_random.md R255). -/
theorem test_hinitrp_set_cell :
    sees (coreTurn { flight 0x53 with cell1 := ⟨true, ⟨1, 2, 3, 4⟩⟩, answers := [ok1122] })
      (fun t => (t.hseed, t.hsec, t.cell1)) =
      some (0x8877665544332211, ⟨1, 2, 3, 4⟩, ⟨true, ⟨1, 2, 3, 4⟩⟩) := by decide

/-- 95_test_vectors.md section 3.4.2: the first candidate of T1. -/
theorem test_first_candidate :
    candidate Params.default .current (secretBytes Params.default) ⟨1, []⟩ =
      .got 0x4b932e6659d22d56 ⟨1 + 8 * 0x2d358dccaa6c78a5, []⟩ := by decide +kernel

/-- 95_test_vectors.md section 3.4.3: with a cap of 1 the second candidate is not built. -/
theorem test_retry_cap_one :
    generateSecret { Params.default with retryCap := some 1 } .current 5 ⟨0, [.ok 1 0 0 0 0 0 0 0]⟩ = .raised .retry := by
  decide +kernel

/-- An answer whose word is a small number. -/
def small8 (n : Nat) : Answer := .ok (BitVec.ofNat 8 n) 0 0 0 0 0 0 0

/-- The parameters of 95_test_vectors.md section 3.4.4, with the prime test left out. -/
def directParams : Params := { Params.default with secretSrc := .direct, requirePrime := false }

/-- The last 32 draws of 95_test_vectors.md section 3.4.4. -/
def directDraws : List Answer :=
  ([46, 25, 40, 10, 42, 42, 69, 0] ++ [6, 2, 68, 37, 53, 10, 30, 7] ++ [6, 44, 53, 5, 56, 39, 59, 62] ++
    [51, 58, 65, 56, 0, 27, 55, 15]).map small8

/-- T1. -/
def t1 : Table := ⟨0x0ff09999359563a5, 0x2d6c35b48de81b2b, 0xd2ca93c527b49c2b, 0x47c3660fc5e1c9b1⟩

/-- 95_test_vectors.md section 3.4.4: DIRECT mode gives T1 from these four candidates. -/
theorem test_direct_mode : generateSecret directParams .legacy 4 ⟨0, directDraws⟩ = .got t1 ⟨0, []⟩ := by decide +kernel

/-! ### The digest, by path (95_test_vectors.md section 3.3.1) -/

/-- `M_n`. -/
def ramp (n : Nat) : List Byte := (List.range n).map (BitVec.ofNat 8)

/-- The digest of `M_n` with seed 0 and the default secret. -/
def rampDigest (v : Variant) (n : Nat) : Word := digest Params.default v 0 (Params.default.of v).defaultSecret (ramp n)

theorem test_digest_empty : rampDigest .legacy 0 = 0x0409638ee2bde459 := by decide +kernel

theorem test_digest_three : rampDigest .current 3 = 0x78c4aa0c972a522d := by decide +kernel

theorem test_digest_sixteen : rampDigest .current 16 = 0x305fdea0ed4a2619 := by decide +kernel

theorem test_digest_two_mids : rampDigest .current 48 = 0xedc8037a363bb842 := by decide +kernel

theorem test_digest_two_strides : rampDigest .legacy 97 = 0xad119c0496db2624 := by decide +kernel

theorem test_window_stride_and_mids :
    windowDigest Params.default .current 0 Params.default.current.defaultSecret (ramp 96) = 0x218dad610b8126c3 := by
  decide +kernel

/-! ### The bus and the step -/

/-- E-3: a reserved opcode. -/
theorem test_reserved_opcode : sees (coreTurn (flight 0x3F)) State.status = some 0x3F10 := by decide

/-- P5: d, an operand write while busy is dropped and sets `OVR`. -/
theorem test_busy_write_dropped :
    sees (hostAccess (.write 64 0x10 7) { flight 0x18 with arg0 := 5, err := .illegal, lastop := 0x14 })
      (fun t => (t.arg0, t.status)) = some (5, 0x1413) := by decide

/-- The refused accesses of 95_test_vectors.md section 3.6. -/
theorem test_bus_errors :
    ([.read 32 0x08, .read 64 0x38, .write 64 0x40 0, .read 64 0x0C] : List Access).all
      (fun a => !a.legal && (after (hostAccess a State.reset)).isNone) = true := by decide

/-- A refused access while a command is in flight: the fault is recorded, and the command is not disturbed
(60_exceptions.md R305). -/
theorem test_bus_error_leaves_command :
    sees (step { flight 0x51 with inputs := [.access (.read 64 0x38), .core] }) (fun t => (t.status, t.ir, t.inputs, t.faults)) =
      some (1, 0x51, [.core], [.busError (.read 64 0x38)]) := by decide

/-- An answer of ENTROPY reaches the command in flight, behind an earlier one (20_memory.md R86). -/
theorem test_answer_reaches_command :
    sees (step { flight 0x52 with answers := [quick], inputs := [.answer ok1122] }) State.answers =
      some [quick, ok1122] := by decide

/-- A second HOST is refused (60_exceptions.md R314). -/
theorem test_second_host_refused :
    after (step { State.reset with inputs := [.secondHost (.read 64 0)] }) = none := by decide

/-- The command given to `withFetchWord` is the next to run. -/
theorem test_with_fetch_word :
    sees (step (State.reset.withFetchWord 64 0x51)) (fun t => (t.hphase, t.lastop)) = some (.opened, 0x11) := by decide

/-- A failed EXPECT drops HOST's moves only (30_encoding.md R113). -/
theorem test_expect_stops_host :
    sees (step { State.reset with inputs := [.expectErr 3, .wait, .core, .answer .fail] }) State.inputs =
      some [.core, .answer .fail] := by decide

/-! ### Witnesses: states and operands that meet the hypotheses of the statements -/

theorem witness_DecodeOfEncode : (Instr.habs 0).wellFormed = true ∧ (Instr.habs 8).wellFormed = true := by decide

theorem witness_EncodeOfDecode : decode 0x814 = .ok (.habs 8) ∧ decode 0x59 = .ok (.rsecret .current) := by decide

theorem witness_LegalWordCondition : decode 0x814 = .ok (.habs 8) := by decide

theorem witness_StepRunsDecodedCommand_used_up :
    (flight 0x51).busy = true ∧ decode (flight 0x51).ir = .ok (.hinitd .current) ∧ (flight 0x51).inputs = [] := by decide

theorem witness_StepRunsDecodedCommand_core_next :
    let s := { flight 0x51 with inputs := [.core, .wait] }
    s.busy = true ∧ decode s.ir = .ok (.hinitd .current) ∧ s.inputs = .core :: [.wait] := by decide

theorem witness_StepRunsDecodedCommand_placed : (Instr.rsecret .legacy).wellFormed = true := by decide

theorem witness_flight_busy (w : Word) : (flight w).busy = true := rfl

theorem witness_IllegalWord_z31 : (flight 0x1009).busy = true ∧ (flight 0x1009).ir.extractLsb' 12 52 ≠ 0 := by decide

theorem witness_IllegalWord_z63 : (flight 0x8000000000000009).ir.extractLsb' 12 52 ≠ 0 := by decide

theorem witness_IllegalWord_z7 : (flight 0x80).ir.getLsbD 7 = true := by decide

theorem witness_IllegalWord_opcode :
    ((flight 0x1B).ir.extractLsb' 0 6).toNat ∉
      [0x00, 0x01, 0x02, 0x08, 0x09, 0x10, 0x11, 0x12, 0x13, 0x14, 0x15, 0x18, 0x19, 0x1A] := by decide

theorem witness_IllegalWord_variant :
    (flight 0x54).ir.getLsbD 6 = true ∧
      ((flight 0x54).ir.extractLsb' 0 6).toNat ∉ [0x08, 0x10, 0x11, 0x12, 0x13, 0x19] := by decide

theorem witness_IllegalWord_count :
    (flight 0x100).ir.extractLsb' 8 4 ≠ 0 ∧ ((flight 0x100).ir.extractLsb' 0 6).toNat ≠ 0x14 := by decide

theorem witness_IllegalWord_count_too_large :
    8 < ((flight 0x914).ir.extractLsb' 8 4).toNat ∧ ((flight 0x914).ir.extractLsb' 0 6).toNat = 0x14 := by decide

theorem witness_ErrorChangesOnlyStatus_plain :
    sees (coreTurn (flight 0x09)) (fun t => (t.busy, t.err)) = some (false, .noctx) := by decide

theorem witness_ErrorChangesOnlyStatus_cell :
    decode (quickFlight 0x53 [.fail]).ir = .ok (.hinitrp .current) ∧
      initCell Config.params .current (quickFlight 0x53 [.fail]).effort ((quickFlight 0x53 [.fail]).cell .current)
        (quickFlight 0x53 [.fail]).supply = .got quickTable ⟨quickStream, [.fail]⟩ ∧
      sees (exec (.hinitrp .current) (quickFlight 0x53 [.fail])) (fun t => (t.busy, t.err)) = some (false, .entropy) := by
  refine ⟨by decide, ?_, ?_⟩
  · rw [initCell, if_neg (by decide), quickFlight_generates]
  · rw [exec, execHinitrp, hinitrp, initCell, if_neg (by decide), quickFlight_generates]; decide

theorem witness_TurnCompletesOrWaits :
    (flight 0x09).busy = true ∧ decode (flight 0x09).ir = .ok .pnext ∧ Instr.pnext.drawsEntropy = false := by decide

theorem witness_UnansweredSeedStaysInFlight :
    (flight 0x18).busy = true ∧ (flight 0x18).inputs = [] ∧ (flight 0x18).ir = 0x18 ∧ (flight 0x18).answers = [] := by decide

theorem witness_ExecLineRunsCommand :
    let s := { State.reset with inputs := lineExec (.habs 8) ++ lineRd .status }
    s.busy = false ∧ (Instr.habs 8).wellFormed = true ∧ (Instr.habs 8).drawsEntropy = false ∧
      s.inputs = lineExec (.habs 8) ++ lineRd .status := by decide

theorem witness_Busy_issue :
    sees (step { State.reset with inputs := [.access (.write 64 0x00 0x3F)] }) State.busy = some true := by decide

theorem witness_Busy_completion : sees (step (flight 0x00)) State.busy = some false := by decide

theorem witness_Busy_reset :
    sees (step { flight 0x18 with inputs := [.reset] }) State.busy = some false := by decide

theorem witness_Overrun_set :
    ([0x00, 0x10, 0x18, 0x20, 0x28, 0x30] : List Nat).all (fun off =>
      sees (step { flight 0x18 with inputs := [.access (.write 64 off 5)] }) State.ovr == some true) = true := by decide

theorem witness_Overrun_cleared_by_write :
    sees (step { flight 0x18 with ovr := true, inputs := [.access (.write 64 0x08 2)] }) State.ovr = some false := by decide

theorem witness_Overrun_cleared_by_reset :
    sees (step { flight 0x18 with ovr := true, inputs := [.reset] }) State.ovr = some false := by decide

theorem witness_Overrun_kept :
    sees (step { flight 0x00 with ovr := true, inputs := [.access (.write 64 0x08 1)] }) State.ovr = some true := by decide

theorem witness_PnextAdvances :
    ({ State.reset with pvalid := true } : State).pvalid = true ∧ State.reset.pvalid = false := by decide

theorem witness_Habs_illegal : 8 < (9 : BitVec 4).toNat := by decide

theorem witness_Habs_no_context : (8 : BitVec 4).toNat ≤ 8 ∧ State.reset.hphase = .none := by decide

theorem witness_Habs_final : (0 : BitVec 4).toNat ≤ 8 ∧ ({ State.reset with hphase := .final } : State).hphase = .final := by
  decide

theorem witness_Habs_length :
    let s := { State.reset with hphase := .opened, hlen := 0xfffffffffffffff8 }
    (8 : BitVec 4).toNat ≤ 8 ∧ s.hphase = .opened ∧ 2 ^ 64 - 1 < s.hlen.toNat + (8 : BitVec 4).toNat := by decide

theorem witness_Habs_fits :
    let s := { State.reset with hphase := .opened, hlen := 0xfffffffffffffff7 }
    (8 : BitVec 4).toNat ≤ 8 ∧ s.hphase = .opened ∧ s.hlen.toNat + (8 : BitVec 4).toNat ≤ 2 ^ 64 - 1 := by decide

theorem witness_Hfin :
    ({ State.reset with hphase := .opened } : State).hphase ≠ .none ∧ State.reset.hphase = .none := by decide

theorem witness_Hfin_twice :
    let s := { State.reset with hphase := .opened }
    s.hphase ≠ .none ∧ ∃ t u, exec .hfin s = .next t ∧ exec .hfin t = .next u := ⟨by decide, _, _, rfl, rfl⟩

theorem witness_Rseed :
    ({ flight 0x18 with answers := [ok1122] } : State).answers = .ok 0x11 0x22 0x33 0x44 0x55 0x66 0x77 0x88 :: [] ∧
      ({ flight 0x18 with answers := [.fail, .fail] } : State).answers = .fail :: [.fail] ∧
      (flight 0x18).answers = [] := by decide

theorem witness_GenerateSecret_raised :
    generateSecret Config.params .current 0 ⟨0, [.fail]⟩ = .raised .entropy := by decide

theorem witness_Rsecret :
    generateSecret Config.params .current (quickFlight 0x59 []).effort ⟨0, (quickFlight 0x59 []).answers⟩ =
      .got quickTable ⟨quickStream, []⟩ := test_generate_quick []

theorem witness_Rsecret_Hinitrf_Hinitrp_waiting :
    generateSecret Config.params .current 1 ⟨0, [quick]⟩ = .waiting ∧ (flight 0x59).answers = [] ∧
      (⟨quickStream, []⟩ : Supply).answers = [] := by decide +kernel

theorem witness_Hinitrf_Hinitrp_secret (as : List Answer) :
    generateSecret Config.params .current (quickFlight 0x52 as).effort ⟨0, (quickFlight 0x52 as).answers⟩ =
      .got quickTable ⟨quickStream, as⟩ := test_generate_quick as

theorem witness_Hinitrf_Hinitrp_seeds :
    generateSeed ⟨quickStream, [ok1122]⟩ = .got 0x8877665544332211 ⟨quickStream, []⟩ ∧
      generateSeed ⟨quickStream, [.fail]⟩ = .raised .entropy ∧
      generateSeed ⟨0, [ok1122]⟩ = .got 0x8877665544332211 ⟨0, []⟩ ∧ generateSeed ⟨0, [.fail]⟩ = .raised .entropy := by
  decide

theorem witness_Hinitrp_cells :
    (({ flight 0x53 with cell1 := ⟨true, quickTable⟩ } : State).cell .current).valid = true ∧
      ((flight 0x53).cell .current).valid = false := by decide

theorem witness_ResultCommandsFrame :
    (∃ t, exec .nop (flight 0x00) = .next t) ∧ (∃ t, exec .mum (flight 0x01) = .next t) ∧
      (∃ t, exec .mix (flight 0x02) = .next t) ∧ (∃ t, exec .schk (flight 0x1A) = .next t) ∧
      (∃ t, exec .rseed (flight 0x18) = .next t) ∧ ∃ t, exec (.rsecret .current) (flight 0x59) = .next t :=
  ⟨exec_next _ _, exec_next _ _, exec_next _ _, exec_next _ _, exec_next _ _, exec_next _ _⟩

theorem witness_GeneratorCommandsFrame :
    (∃ t, exec (.pseed .current) (flight 0x48) = .next t) ∧ ∃ t, exec .pnext (flight 0x09) = .next t :=
  ⟨exec_next _ _, exec_next _ _⟩

theorem witness_HashCommandsFrame :
    (∃ t, exec (.hinit .current) (flight 0x50) = .next t) ∧ (∃ t, exec (.hinitd .current) (flight 0x51) = .next t) ∧
      (∃ t, exec (.hinitrf .current) (flight 0x52) = .next t) ∧
      (∃ t, exec (.hinitrp .current) (flight 0x53) = .next t) ∧
      (∃ t, exec (.habs 8) { flight 0x814 with hphase := .opened, hmsg := [1], hlen := 1 } = .next t) ∧
      ∃ t, exec .hfin (flight 0x15) = .next t :=
  ⟨exec_next _ _, exec_next _ _, exec_next _ _, exec_next _ _, exec_next _ _, exec_next _ _⟩

theorem witness_StateWrittenOnlyByItsCommands :
    (∃ t, exec .pnext (flight 0x09) = .next t) ∧ (∀ v, Instr.pnext ≠ .pseed v) ∧
      (∃ t, exec .hfin (flight 0x15) = .next t) ∧ (∀ v, Instr.hfin ≠ .pseed v) ∧ Instr.hfin ≠ .pnext ∧
      (∀ v, Instr.hfin ≠ .hinit v ∧ Instr.hfin ≠ .hinitd v ∧ Instr.hfin ≠ .hinitrf v ∧ Instr.hfin ≠ .hinitrp v) :=
  ⟨exec_next _ _, by simp, exec_next _ _, by simp, by simp, by simp⟩

theorem witness_CellWrittenOnlyWhileEmpty :
    ∃ t, exec (.hinitrp .current) (quickFlight 0x53 [.fail]) = .next t ∧
      t.cell .current ≠ (quickFlight 0x53 [.fail]).cell .current := by
  rw [exec, execHinitrp, hinitrp, initCell, if_neg (by decide), quickFlight_generates]
  exact ⟨_, rfl, by decide⟩

theorem witness_ValidCellStaysUntilReset :
    let s := { flight 0x00 with cell0 := ⟨true, quickTable⟩ }
    (after (step s)).isSome = true ∧ (s.cell .legacy).valid = true ∧ ∀ rest, s.inputs ≠ .reset :: rest :=
  ⟨by decide, by decide, by simp [flight, State.reset]⟩

theorem witness_BusErrorsExactly : ¬ ∃ t, hostAccess (.read 64 0xA0) State.reset = .next t := by
  rintro ⟨t, h⟩; cases h

theorem witness_BusErrorsExactly_step :
    (¬ ∃ t, hostAccess (.write 64 0x40 1) (flight 0x51) = .next t) ∧
      ({ flight 0x51 with inputs := [.access (.write 64 0x40 1)] } : State).inputs = .access (.write 64 0x40 1) :: [] ∧
      ∃ t, step { flight 0x51 with inputs := [.access (.write 64 0x40 1)] } = .next t :=
  ⟨(by rintro ⟨t, h⟩; cases h), rfl, _, rfl⟩

theorem witness_BusErrorsExactly_legal_step : ∃ t, step (flight 0x51) = .next t := ⟨_, rfl⟩

theorem witness_WindowBytesLittleEndian : 0 < 8 ∧ 7 < 8 := by decide

theorem witness_ResetValues : ∃ s : State, (flight 0x18).resetBlock = s.resetBlock := ⟨_, rfl⟩

theorem witness_ResetAbandonsCommand :
    ({ flight 0x18 with inputs := [.reset, .answer ok1122, .core] } : State).inputs =
      .reset :: .answer ok1122 :: [.core] := by decide

theorem witness_ResetAbandonsCommand_answer :
    ({ flight 0x18 with inputs := [.answer ok1122] } : State).inputs = .answer ok1122 :: [] ∧ (flight 0x18).busy = true ∧
      ({ State.reset with inputs := [.answer .fail] } : State).inputs = .answer .fail :: [] ∧
      State.reset.busy = false := by decide

theorem witness_GeneratorSequence :
    ({ State.reset with pvalid := true } : State).pvalid = true ∧
      (Params.default.of State.reset.pvar).prngAdd.getLsbD 0 = true ∧ (0 : Nat) < 2 ^ 64 ∧ 2 ^ 64 - 1 < 2 ^ 64 := by decide

theorem witness_LittleEndianReads : 8 ≤ 8 ∧ 0 + 8 ≤ (ramp 8).length ∧ 1 ≤ 8 ∧ 7 + 1 ≤ (ramp 8).length := by decide

theorem witness_BlockCounts : 0 < 49 ∧ (1 ≤ 1 ∧ 1 ≤ 48) ∧ 1 ≤ 48 ∧ 48 ≤ 48 := by decide

theorem witness_DigestOfMediumMessage :
    (16 < (ramp 17).length ∧ (ramp 17).length ≤ 32) ∧ (16 < (ramp 32).length ∧ (ramp 32).length ≤ 32) ∧
      (32 < (ramp 33).length ∧ (ramp 33).length ≤ 48) ∧ 32 < (ramp 48).length ∧ (ramp 48).length ≤ 48 := by decide

theorem witness_DigestOfMediumMessage_short :
    (ramp 0).length = 0 ∧ (1 ≤ (ramp 1).length ∧ (ramp 3).length ≤ 3) ∧ (4 ≤ (ramp 4).length ∧ (ramp 7).length ≤ 7) ∧
      (8 ≤ (ramp 8).length ∧ (ramp 15).length ≤ 15) ∧ (ramp 16).length = 16 := by decide

theorem witness_DigestOfMediumMessage_strides :
    (48 < (ramp 49).length ∧ (ramp 64).length ≤ 64) ∧ (64 < (ramp 65).length ∧ (ramp 80).length ≤ 80) ∧
      96 < (ramp 97).length ∧ (ramp 112).length ≤ 112 := by decide

/-- Chunks of 3, 0 and 8 bytes. -/
def threeChunks : List (Word × BitVec 4) := [(0xffffffffff020100, 3), (0x0403, 0), (0x0a09080706050403, 8)]

theorem witness_ChunkingInvariance :
    let s := { State.reset with hphase := .opened }
    s.hphase = .opened ∧ s.hmsg = [] ∧ s.hlen = 0 ∧ (∀ p ∈ threeChunks, p.2.toNat ≤ 8) ∧
      (chunkBytes threeChunks).length ≤ 2 ^ 64 - 1 := by
  have h : (chunkBytes threeChunks).length = 11 := by decide
  exact ⟨rfl, rfl, rfl, by simp [threeChunks], by rw [h]; norm_num⟩

theorem witness_CandidateFollowsStream : Params.default.secretSrc = .seeded := rfl

theorem witness_CandidateFollowsStream_direct :
    directParams.secretSrc = .direct ∧ ([1, 2, 3, 4, 5, 6, 7, 8] : List Word).length = 8 ∧
      ([1, 2, 3, 4, 5, 6, 7] : List Word).length < 8 ∧ ([] : List Word).length < 8 := by decide

theorem witness_GeneratedSecretIsGood :
    Config.params.legal = true ∧
      generateSecret Config.params .current 31 ⟨0, [quick]⟩ = .got quickTable ⟨quickStream, []⟩ :=
  ⟨by decide, test_generate_quick []⟩

theorem witness_GenerateSecretDraws_seeded :
    Config.params.secretSrc = .seeded ∧
      generateSecret Config.params .current 31 ⟨0, [quick]⟩ = .got quickTable ⟨quickStream, []⟩ :=
  ⟨rfl, test_generate_quick []⟩

theorem witness_GenerateSecretDraws_direct :
    directParams.secretSrc = .direct ∧ generateSecret directParams .legacy 4 ⟨0, directDraws⟩ = .got t1 ⟨0, []⟩ :=
  ⟨rfl, test_direct_mode⟩

theorem witness_GenerateSecretDraws_no_answer_or_fail :
    Params.default.secretSrc = .seeded ∧ (⟨0, []⟩ : Supply).answers = [] ∧
      (⟨0, [.fail]⟩ : Supply).answers = .fail :: [] := by decide

theorem witness_GenerateSecretDraws_cap :
    ({ directParams with retryCap := some 4 } : Params).retryCap = some 4 ∧
      generateSecret { directParams with retryCap := some 4 } .legacy 4 ⟨0, directDraws⟩ = .got t1 ⟨0, []⟩ := by
  decide +kernel

theorem witness_TimeDoesNotChangeTheSecret :
    31 ≤ 63 ∧ generateSecret Config.params .current 31 ⟨0, [quick]⟩ ≠ .waiting := by
  rw [test_generate_quick]; simp

theorem witness_RetryCap_none : Params.default.retryCap = none := rfl

theorem witness_RetryCap_some :
    ({ Params.default with retryCap := some 1 } : Params).retryCap = some 1 ∧ 1 ≤ 1 ∧
      ({ Params.default with retryCap := some 1 } : Params).secretSrc = .seeded ∧
      (⟨0, [quick]⟩ : Supply).answers ≠ [] := by decide

theorem witness_StepKeepsInvariant :
    let s := { State.reset with inputs := [.access (.write 64 0x00 0x51)] }
    s.Inv ∧ ∃ t, step s = .next t :=
  ⟨{  message := rfl
      idle := fun _ => ⟨rfl, rfl⟩
      validCell := fun v h => by cases v <;> exact absurd h (by decide)
      emptyCell := fun v _ => by cases v <;> rfl
      unseeded := fun _ => ⟨rfl, rfl⟩
      noContext := fun _ => ⟨rfl, rfl, rfl, rfl, rfl⟩ }, _, rfl⟩

theorem witness_CleanRunNeverStops_oneHost :
    ({ flight 0x18 with inputs := [.access (.read 32 0x08), .answer .fail, .core] } : State).oneHost = true := by decide

theorem witness_CleanRunNeverStops :
    ({ State.reset with
        inputs := lineExec (.habs 9) ++ [.expectErr 1, .answer .fail, .core, .reset, .access (.read 64 0x98)] } :
      State).clean = true := by decide

end Sys2Proof.Tests
end

section
/-! PROOF. Little-endian reads of a message are weighted sums of its bytes (00_scope.md R19). -/

namespace Sys2Proof.Machine

/-- At most eight bytes as a number: byte j weighs `2^(8j)` (00_scope.md R19). -/
theorem leWord_toNat_eq_sum (bs : List Byte) (h : bs.length ≤ 8) :
    (leWord bs).toNat = ((List.range bs.length).map (fun j => (bs.getD j 0).toNat * 2 ^ (8 * j))).sum := by
  induction bs with
  | nil => rfl
  | cons b bs ih =>
    have hlen : bs.length ≤ 7 := Nat.le_of_succ_le_succ h
    have hweight (j : Nat) : (bs.getD j 0).toNat * 2 ^ (8 * (j + 1)) = 256 * ((bs.getD j 0).toNat * 2 ^ (8 * j)) := by
      ring
    rw [leWord_toNat_cons b bs hlen, ih (by omega), List.length_cons, List.range_succ_eq_map]
    simp only [List.map_cons, List.map_map, List.sum_cons, Function.comp_def, Nat.succ_eq_add_one,
      List.getD_cons_succ, List.getD_cons_zero, hweight, List.sum_map_mul_left]
    omega

/-- Byte j of the bytes a read takes is byte `i + j` of the message. -/
theorem getD_take_drop (m : List Byte) (i : Nat) {j k : Nat} (hj : j < k) :
    ((m.drop i).take k).getD j 0 = m.getD (i + j) 0 := by
  simp only [List.getD_eq_getElem?_getD, List.getElem?_take_of_lt hj, List.getElem?_drop]

/-- Settles O45: the bytes a read takes, summed, re-indexed at their place in the message. -/
theorem littleEndianReads : Obligations.LittleEndianReads := by
  intro k i m hk hik
  have hlen : ((m.drop i).take k).length = k := by
    rw [List.length_take, List.length_drop]
    omega
  rw [readLE, leWord_toNat_eq_sum _ (by omega), hlen]
  congr 1
  refine List.map_congr_left fun j hj => ?_
  rw [getD_take_drop m i (List.mem_range.mp hj)]

end Sys2Proof.Machine
end

section
/-! PROOF. The registers HOST reads: the fields of `STATUS` and `CFG` (10_state.md R35, R49) and the values after reset
(R56). -/

namespace Sys2Proof.Machine

/-- A bit of a word, read off its number. -/
theorem getLsbD_eq_of_div_mod {n : Nat} {w : BitVec n} {i : Nat} {b : Bool} (h : w.toNat / 2 ^ i % 2 = b.toNat) :
    w.getLsbD i = b := by
  rw [BitVec.getLsbD, Nat.testBit_eq_decide_div_mod_eq, h]
  cases b <;> rfl

/-- A field of a word, read off its number. -/
theorem extractLsb'_eq_of_div_mod {n i k : Nat} {w : BitVec n} {x : BitVec k} (h : w.toNat / 2 ^ i % 2 ^ k = x.toNat) :
    w.extractLsb' i k = x := by
  apply BitVec.eq_of_toNat_eq
  rw [BitVec.extractLsb'_toNat, Nat.shiftRight_eq_div_pow, h]

/-- `STATUS` as the weighted sum of its fields (10_state.md R35). -/
theorem status_toNat (s : State) :
    s.status.toNat = s.lastop.toNat * 2 ^ 8 + s.err.code.toNat * 2 ^ 4 + s.ovr.toNat * 2 + s.busy.toNat := by
  simp only [State.status, toNat_append_eq, BitVec.toNat_ofBool, BitVec.ofNat_eq_ofNat, BitVec.toNat_ofNat]
  omega

/-- `CFG` as the weighted sum of its fields (10_state.md R49). -/
theorem cfg_toNat (P : Params) (s : State) :
    (s.cfg P).toNat = (srcBit P.secretSrc).toNat * 2 ^ 7 + s.cell1.valid.toNat * 2 ^ 6 + s.cell0.valid.toNat * 2 ^ 5 +
      s.hvar.bit.toNat * 2 ^ 4 + s.hphase.code.toNat * 2 ^ 2 + s.pvar.bit.toNat * 2 + s.pvalid.toNat := by
  simp only [State.cfg, toNat_append_eq, BitVec.toNat_ofBool, BitVec.ofNat_eq_ofNat, BitVec.toNat_ofNat]
  omega

theorem bit_eq_true_iff (v : Variant) : v.bit = true ↔ v = .current := by cases v <;> decide

theorem srcBit_eq_true_iff (m : SecretSrc) : srcBit m = true ↔ m = .direct := by cases m <;> decide

/-- Settles O38: each field is a quotient and remainder of the weighted sum. -/
theorem statusFields : Obligations.StatusFields := by
  intro s
  have hbusy := s.busy.toNat_lt
  have hovr := s.ovr.toNat_lt
  have herr := s.err.code.isLt
  have hlastop := s.lastop.isLt
  have hsum := status_toNat s
  have hcode : s.status.extractLsb' 4 4 = s.err.code := extractLsb'_eq_of_div_mod (by omega)
  refine ⟨getLsbD_eq_of_div_mod (by omega), getLsbD_eq_of_div_mod (by omega), extractLsb'_eq_of_div_mod ?_, ?_,
    extractLsb'_eq_of_div_mod (by omega), extractLsb'_eq_of_div_mod ?_⟩
  · change _ = 0
    omega
  · rw [hcode]
    cases s.err <;> rfl
  · change _ = 0
    omega

/-- Settles O39: as `statusFields`; the offset of `CFG` is no writable register's. -/
theorem cfgFields : Obligations.CfgFields := by
  intro P s
  have hpvalid := s.pvalid.toNat_lt
  have hpvar := s.pvar.bit.toNat_lt
  have hphase := s.hphase.code.isLt
  have hhvar := s.hvar.bit.toNat_lt
  have hpsv0 := s.cell0.valid.toNat_lt
  have hpsv1 := s.cell1.valid.toNat_lt
  have hsrc := (srcBit P.secretSrc).toNat_lt
  have hsum := cfg_toNat P s
  have hcode : (s.cfg P).extractLsb' 2 2 = s.hphase.code := extractLsb'_eq_of_div_mod (by omega)
  rw [← bit_eq_true_iff, ← bit_eq_true_iff, ← srcBit_eq_true_iff, ← Bool.eq_iff_iff, ← Bool.eq_iff_iff,
    ← Bool.eq_iff_iff, hcode]
  refine ⟨getLsbD_eq_of_div_mod (by omega), getLsbD_eq_of_div_mod (by omega), by cases s.hphase <;> rfl,
    getLsbD_eq_of_div_mod (by omega), getLsbD_eq_of_div_mod (by omega), getLsbD_eq_of_div_mod (by omega),
    getLsbD_eq_of_div_mod (by omega), extractLsb'_eq_of_div_mod ?_, fun x => rfl⟩
  change _ = 0
  omega

/-- `CFG` after reset: only the bit of the configuration can be set (10_state.md R49, R56). -/
theorem resetBlock_cfg (P : Params) (s : State) : s.resetBlock.cfg P = if P.secretSrc = .direct then 0x80 else 0 := by
  change State.reset.cfg P = _
  unfold State.cfg
  cases P.secretSrc <;> decide

/-- Every register but `CFG` reads 0 after reset (10_state.md R56). -/
theorem resetBlock_regValue (P : Params) (s : State) {r : Reg} (hr : r ≠ .cfg) : s.resetBlock.regValue P r = 0 := by
  cases r with
  | cfg => exact absurd rfl hr
  | status => exact (by decide : State.reset.status = 0)
  | _ => rfl

/-- Settles O41: the state after reset is the one a reset event leaves of it. -/
theorem resetValues : Obligations.ResetValues := by
  intro t ht
  obtain ⟨s, rfl⟩ : ∃ s : State, t = s.resetBlock := ht.elim (fun h => ⟨.reset, h⟩) id
  exact ⟨fun r hr => resetBlock_regValue _ s hr, fun P => resetBlock_cfg P s, rfl, rfl, rfl, s.resetBlock_cell⟩

/-- A reset event leaves a state that meets the invariant, whatever it found. -/
theorem resetBlock_inv (s : State) : s.resetBlock.Inv where
  message := resetBlock_wf s
  idle _ := ⟨rfl, rfl⟩
  validCell v h := by simp at h
  emptyCell v _ := by simp
  unseeded _ := ⟨rfl, rfl⟩
  noContext _ := ⟨rfl, rfl, rfl, rfl, rfl⟩

/-- Settles O58: a reset event leaves the state after reset as it is. -/
theorem resetMeetsInvariant : Obligations.ResetMeetsInvariant := resetBlock_inv .reset

end Sys2Proof.Machine
end

section
/-! PROOF. A generated secret is good, for every legal parameter set (44_random.md R245 to R247, R258). -/

namespace Sys2Proof.Machine

/-- A byte with its lowest k bits set has population count k. -/
theorem popcount_lowBits {k : Nat} (hk : k ≤ 8) : popcount (BitVec.ofNat 8 (2 ^ k - 1)) = k := by
  interval_cases k <;> decide

/-- The bytes of the list are those in the band (44_random.md R242). -/
theorem mem_secretBytes {P : Params} {b : Byte} :
    b ∈ secretBytes P ↔ P.bytePopBand.contains (popcount b) = true := by
  simp only [secretBytes, List.mem_filter, List.mem_map, List.mem_range, and_iff_right_iff_imp]
  exact fun _ => ⟨b.toNat, b.isLt, BitVec.ofNat_toNat 8 b ▸ by simp⟩

/-- A legal band has a byte in it (00_scope.md R14, 44_random.md R242). -/
theorem secretBytes_ne_nil {P : Params} (hP : P.legal = true) : secretBytes P ≠ [] := by
  simp only [Params.legal, Bool.and_eq_true, Bool.not_eq_true', List.all_eq_true, decide_eq_true_eq] at hP
  obtain ⟨⟨⟨⟨⟨-, hne⟩, hle⟩, -⟩, -⟩, -⟩ := hP
  obtain ⟨k, hk⟩ := List.exists_mem_of_ne_nil P.bytePopBand (by simpa using hne)
  refine List.ne_nil_of_mem ((mem_secretBytes (b := BitVec.ofNat 8 (2 ^ k - 1))).mpr ?_)
  rw [popcount_lowBits (hle k hk)]
  exact List.contains_iff_mem.mpr hk

/-- A byte selected for a candidate (44_random.md R246) is of the list. -/
theorem selectByte_mem {bytes : List Byte} (hne : bytes ≠ []) (r : Word) : selectByte bytes r ∈ bytes := by
  have hlt : r.toNat % bytes.length < bytes.length := Nat.mod_lt _ (List.length_pos_of_ne_nil hne)
  rw [selectByte, List.getD_eq_getElem _ _ hlt]
  exact List.getElem_mem hlt

/-- A byte added at place j of a word (44_random.md R246) changes that byte only. -/
theorem byteOf_or_shiftLeft (w : Word) (b : Byte) {j k : Nat} (hj : j < 8) :
    byteOf (w ||| (b.setWidth 64 <<< (8 * j))) k = if k = j then byteOf w j ||| b else byteOf w k := by
  split
  · next h =>
    subst h
    ext n hn
    have hlt : 8 * k + n < 64 := by omega
    simp [byteOf, hlt, hn]
  · next h =>
    ext n hn
    have hbit (hle : 8 * j ≤ 8 * k + n) : b.getLsbD (8 * k + n - 8 * j) = false := BitVec.getLsbD_of_ge _ _ (by omega)
    simp +contextual [byteOf, hbit]

/-- A candidate keeps the bytes below the place it goes on from and fills the rest from the list (44_random.md R246). -/
theorem candidateFrom_bytes {P : Params} {v : Variant} {bytes : List Byte} (hne : bytes ≠ []) {k : Nat} :
    ∀ {j : Nat} {w w' : Word} {g g' : Supply}, j + k = 8 → (∀ i < j, byteOf w i ∈ bytes) →
      (∀ i, j ≤ i → byteOf w i = 0) → candidateFrom P v bytes k j w g = .got w' g' → ∀ i < 8, byteOf w' i ∈ bytes := by
  induction k with
  | zero =>
    intro j w w' g g' hjk hlow _ h
    cases h
    exact fun i hi => hlow i (by omega)
  | succ k ih =>
    intro j w w' g g' hjk hlow hhigh h
    simp only [candidateFrom] at h
    split at h
    · next r g₁ _ =>
      refine ih (by omega) (fun i hi => ?_) (fun i hi => ?_) h
      · rw [byteOf_or_shiftLeft _ _ (by omega)]
        split
        · simpa [hhigh j le_rfl] using selectByte_mem hne r
        · exact hlow i (by omega)
      · rw [byteOf_or_shiftLeft _ _ (by omega), if_neg (by omega)]
        exact hhigh i (by omega)
    · cases h
    · cases h

/-- Every byte of a candidate is in the band (44_random.md R243, R246). -/
theorem candidate_bytesInBand {P : Params} (hP : P.legal = true) {v : Variant} {w : Word} {g g' : Supply}
    (h : candidate P v (secretBytes P) g = .got w g') : bytesInBand P w = true := by
  have hmem := candidateFrom_bytes (secretBytes_ne_nil hP) (j := 0) rfl (by simp) (by simp [byteOf]) h
  rw [bytesInBand, List.all_eq_true]
  exact fun i hi => mem_secretBytes.mp (hmem i (List.mem_range.mp hi))

/-- `Good` of one more word at the end (44_random.md R247). -/
theorem goodFrom_concat (P : Params) (w : Word) (ws : List Word) :
    ∀ E, goodFrom P E (ws ++ [w]) = (goodFrom P E ws && (bytesInBand P w && accept P w (E ++ ws))) := by
  induction ws with
  | nil => intro E; simp [goodFrom]
  | cons x ws ih => intro E; simp [goodFrom, ih, Bool.and_assoc]

/-- The words accepted so far stay good (44_random.md R245, R247). -/
theorem acceptInto_good {P : Params} {acc : List Word} {w : Word} (hacc : goodFrom P [] acc = true)
    (hw : bytesInBand P w = true) : goodFrom P [] (acceptInto P acc w) = true := by
  unfold acceptInto
  split
  · next ha => rw [goodFrom_concat, hacc, hw, List.nil_append, ha]; rfl
  · exact hacc

/-- Where the candidate loop ends with a table, the table is the words accepted (44_random.md R245). -/
theorem secretEnd_good {P : Params} {count : Nat} {acc : List Word} {g g' : Supply} {S : Table}
    (hacc : goodFrom P [] acc = true) (h : secretEnd P count acc g = some (.got S g')) : good P S = true := by
  obtain ⟨-, hS, -⟩ := secretEnd_got h
  rwa [good, ← hS]

/-- The candidate loop keeps "the words accepted so far are good" (44_random.md R245). -/
theorem secretLoop_good {P : Params} (hP : P.legal = true) {v : Variant} {k : Nat} :
    ∀ {count : Nat} {acc : List Word} {g g' : Supply} {S : Table}, goodFrom P [] acc = true →
      secretLoop P v (secretBytes P) k count acc g = .got S g' → good P S = true := by
  induction k with
  | zero =>
    intro count acc g g' S hacc h
    rw [secretLoop] at h
    cases he : secretEnd P count acc g with
    | none => simp [he] at h
    | some d => exact secretEnd_good hacc (he.trans (congrArg some (by simpa [he] using h)))
  | succ k ih =>
    intro count acc g g' S hacc h
    rw [secretLoop] at h
    split at h
    · next d he => exact secretEnd_good hacc (he.trans (congrArg some h))
    · split at h
      · next w g₁ hc => exact ih (acceptInto_good hacc (candidate_bytesInBand hP hc)) h
      · cases h
      · cases h

/-- `GenerateSecret` returns only good tables (44_random.md R258), however much time it had. -/
theorem generateSecret_good {P : Params} (hP : P.legal = true) {v : Variant} {k : Nat} {g g' : Supply} {S : Table}
    (h : generateSecret P v k g = .got S g') : good P S = true := by
  unfold generateSecret at h
  split at h
  · split at h
    · exact secretLoop_good hP rfl h
    · cases h
    · cases h
  · exact secretLoop_good hP rfl h

end Sys2Proof.Machine
end

section
/-! PROOF. What a command can do to the state, said once, and the statements about commands that follow from it: which
state each command writes (10_state.md R31, R39 to R50), and CORE's turn (R38). -/

namespace Sys2Proof.Machine

/-- Everything a command can do: it goes on waiting, or it completes having written, besides `STATUS`, what its
constructor says (30_encoding.md R105, 40_control.md R133, R134). -/
inductive CommandEffect (s : State) : Instr → State → Prop
  | waits {i : Instr} (hd : i.drawsEntropy = true) : CommandEffect s i s.stall
  | status (i : Instr) (e : Err) : CommandEffect s i (s.finish e)
  | results (i : Instr) (S : Table) : CommandEffect s i ((s.setResults S).finish .success)
  | seeds (v : Variant) :
    CommandEffect s (.pseed v) (({ s with pstate := s.arg0, pvalid := true, pvar := v } : State).finish .success)
  | advances (x y : Word) (hv : s.pvalid = true) :
    CommandEffect s .pnext (({ s with pstate := x, res0 := y } : State).finish .success)
  | constructs {i : Instr} {v : Variant} (hi : i = .hinit v ∨ i = .hinitd v ∨ i = .hinitrf v) (seed : Word)
    (S : Table) :
    CommandEffect s i ((s.construct seed S v).finish .success)
  | absorbs (c : BitVec 4) (bs : List Byte) (hp : s.hphase = .opened) :
    CommandEffect s (.habs c) ((s.append bs).finish .success)
  | finalizes (x : Word) (hp : s.hphase ≠ .none) :
    CommandEffect s .hfin (({ s with res0 := x, hphase := .final } : State).finish .success)
  | commits {v : Variant} {S : Table} {g : Supply}
    (hc : initCell Config.params v s.effort (s.cell v) s.supply = .got S g) :
    CommandEffect s (.hinitrp v) ((s.setCell v ⟨true, S⟩).finish .entropy)
  | commitsAndConstructs {v : Variant} {S : Table} {g : Supply}
    (hc : initCell Config.params v s.effort (s.cell v) s.supply = .got S g) (seed : Word) :
    CommandEffect s (.hinitrp v) (((s.setCell v ⟨true, S⟩).construct seed S v).finish .success)

/-- A command that writes `RES0` alone. -/
theorem commandEffect_res0 (i : Instr) (s : State) (x : Word) :
    CommandEffect s i (({ s with res0 := x } : State).finish .success) := .results i ⟨x, s.res1, s.res2, s.res3⟩

/-- Every command does one of these (30_encoding.md R105). -/
theorem exec_effect {i : Instr} {s t : State} (h : exec i s = .next t) : CommandEffect s i t := by
  cases i with
  | nop => cases h; exact .status _ _
  | mum => cases h; exact .results _ ⟨_, _, s.res2, s.res3⟩
  | mix | schk => cases h; exact commandEffect_res0 _ _ _
  | pseed v => cases h; exact .seeds v
  | hinit v | hinitd v => cases h; exact .constructs (by simp) _ _
  | pnext =>
    cases h
    obtain ⟨-, h⟩ | ⟨hv, h⟩ := pnext_cases Config.params s <;> rw [h]
    · exact .status _ _
    · exact .advances _ _ hv
  | habs c =>
    cases h
    obtain ⟨e, -, h⟩ | ⟨-, hp, -, h⟩ := habs_cases c s <;> rw [h]
    · exact .status _ _
    · exact .absorbs c _ hp
  | hfin =>
    cases h
    obtain ⟨-, h⟩ | ⟨hp, h⟩ := hfin_cases Config.params s <;> rw [h]
    · exact .status _ _
    · exact .finalizes _ hp
  | rseed =>
    cases h
    obtain h | h | ⟨r, h⟩ := rseed_cases s <;> rw [h]
    · exact .waits rfl
    · exact .status _ _
    · exact commandEffect_res0 _ _ _
  | rsecret v =>
    cases h
    obtain h | ⟨e, -, h⟩ | ⟨S, g, -, h⟩ := rsecret_cases Config.params v s <;> rw [h]
    · exact .waits rfl
    · exact .status _ _
    · exact .results _ S
  | hinitrf v =>
    cases h
    obtain h | ⟨e, -, h⟩ | ⟨S, g, seed, g', -, -, h⟩ := hinitrf_cases Config.params v s <;> rw [h]
    · exact .waits rfl
    · exact .status _ _
    · exact .constructs (by simp) seed S
  | hinitrp v =>
    cases h
    obtain h | ⟨e, -, h⟩ | ⟨S, g, hc, -, h⟩ | ⟨S, g, seed, g', hc, -, h⟩ := hinitrp_cases Config.params v s <;> rw [h]
    · exact .waits rfl
    · exact .status _ _
    · exact .commits hc
    · exact .commitsAndConstructs hc seed

/-- A command that draws no entropy completes (40_control.md R134). -/
theorem exec_completes {i : Instr} {s t : State} (h : exec i s = .next t) (hd : i.drawsEntropy = false) :
    t.busy = false := by
  obtain ⟨-, hd'⟩ | ⟨u, e, rfl, -⟩ := exec_finish_or_stall h
  · exact absurd (hd.symm.trans hd') Bool.false_ne_true
  · rfl

/-- Settles O10: the three answers of CORE's turn, the last by what a command can do. -/
theorem turnCompletesOrWaits : Obligations.TurnCompletesOrWaits := by
  intro s hb
  obtain ⟨hb', -⟩ | ⟨-, ⟨e, he⟩, h⟩ | ⟨i, t, -, hi, ht, h⟩ := coreTurn_cases s
  · exact absurd (hb.symm.trans hb') (by decide)
  · exact ⟨_, h, .inl ⟨rfl, rfl, rfl⟩, fun _ _ _ => rfl⟩
  · refine ⟨t, h, ?_, fun j hj hd => ?_⟩
    · obtain ⟨rfl, -⟩ | ⟨u, e, rfl, hir, hovr, -⟩ := exec_finish_or_stall ht
      · exact .inr rfl
      · exact .inl ⟨rfl, congrArg opField hir, hovr⟩
    · obtain rfl : i = j := Except.ok.inj (hi.symm.trans hj)
      exact exec_completes ht hd

/-- No command writes an operand (10_state.md R31). -/
theorem exec_args {i : Instr} {s t : State} (h : exec i s = .next t) :
    t.arg0 = s.arg0 ∧ t.arg1 = s.arg1 ∧ t.arg2 = s.arg2 ∧ t.arg3 = s.arg3 ∧ t.arg4 = s.arg4 := by
  cases exec_effect h <;> simp

/-- Only PSEED and PNEXT write the generator, and PNEXT its state word only (10_state.md R39, R40). -/
theorem exec_generator {i : Instr} {s t : State} (h : exec i s = .next t) :
    (∃ v, i = .pseed v ∧ t.pvalid = true) ∨
      (t.pvalid = s.pvalid ∧ t.pvar = s.pvar ∧ (t.pstate = s.pstate ∨ i = .pnext ∧ s.pvalid = true)) := by
  cases exec_effect h with
  | seeds v => exact .inl ⟨v, rfl, rfl⟩
  | advances x y hv => exact .inr ⟨rfl, rfl, .inr ⟨rfl, hv⟩⟩
  | _ => exact .inr (by simp)

/-- Only a construction writes the context's seed, secret and variant, and it opens the context; any other command
leaves phase and message as they are, or works on a context already constructed (10_state.md R43, R44, 43_hash.md R213). -/
theorem exec_context {i : Instr} {s t : State} (h : exec i s = .next t) :
    ((∃ v, i = .hinit v ∨ i = .hinitd v ∨ i = .hinitrf v ∨ i = .hinitrp v) ∧ t.hphase = .opened) ∨
      (t.hseed = s.hseed ∧ t.hsec = s.hsec ∧ t.hvar = s.hvar ∧
        ((t.hphase = s.hphase ∧ t.hmsg = s.hmsg ∧ t.hlen = s.hlen) ∨ (s.hphase ≠ .none ∧ t.hphase ≠ .none))) := by
  cases exec_effect h with
  | constructs hi seed S => exact .inl ⟨⟨_, by tauto⟩, rfl⟩
  | commitsAndConstructs hc seed => exact .inl ⟨⟨_, .inr (.inr (.inr rfl))⟩, rfl⟩
  | absorbs c bs hp => exact .inr ⟨rfl, rfl, rfl, .inr (by simp [hp])⟩
  | finalizes x hp => exact .inr ⟨rfl, rfl, rfl, .inr ⟨hp, by simp⟩⟩
  | _ => exact .inr (by simp)

/-- Committing what InitCell returns (44_random.md R250) changes a cell only where it was empty, to a good table
(R258). -/
theorem commit_cell {s : State} {v : Variant} {k : Nat} {g g' : Supply} {S : Table}
    (hc : initCell Config.params v k (s.cell v) g = .got S g') (u : Variant) :
    (s.setCell v ⟨true, S⟩).cell u = s.cell u ∨
      (u = v ∧ (s.cell u).valid = false ∧ (s.setCell v ⟨true, S⟩).cell u = ⟨true, S⟩ ∧
        good Config.params S = true) := by
  by_cases huv : u = v
  · subst huv
    rw [State.setCell_cell_same]
    obtain ⟨hv, rfl, -⟩ | ⟨hv, hg⟩ := initCell_got hc
    · exact .inl (by rw [← hv])
    · exact .inr ⟨rfl, hv, rfl, generateSecret_good (by decide) hg⟩
  · exact .inl (s.setCell_cell_other huv _)

/-- HINITRP on an empty cell commits a good table to it, and nothing else writes a cell (10_state.md R50,
44_random.md R250, R258). -/
theorem exec_cell {i : Instr} {s t : State} (h : exec i s = .next t) (u : Variant) :
    t.cell u = s.cell u ∨
      (i = .hinitrp u ∧ (s.cell u).valid = false ∧ ∃ S, t.cell u = ⟨true, S⟩ ∧ good Config.params S = true) := by
  cases exec_effect h with
  | commits hc | commitsAndConstructs hc =>
    simp only [State.finish_cell, State.construct_cell]
    obtain hsame | ⟨rfl, hv, hcell, hgood⟩ := commit_cell hc u
    · exact .inl hsame
    · exact .inr ⟨rfl, hv, _, hcell, hgood⟩
  | seeds | advances | finalizes => exact .inl (by cases u <;> rfl)
  | _ => exact .inl (by simp)

/-- Settles O32: the generator's, the cells' and the context's writers, with the command's name as the hypothesis. -/
theorem stateWrittenOnlyByItsCommands : Obligations.StateWrittenOnlyByItsCommands := by
  intro i s t h
  refine ⟨exec_args h, fun hi => ?_, fun hi => ?_, fun hi => ?_⟩
  · obtain ⟨v, hv, -⟩ | ⟨hvalid, hvar, hstate⟩ := exec_generator h
    · exact absurd hv (hi v)
    · exact ⟨hvalid, hvar, fun hne => hstate.resolve_right fun h => hne h.1⟩
  · have hcell (u : Variant) : t.cell u = s.cell u := by
      refine (exec_cell h u).resolve_right ?_
      rintro ⟨rfl, -⟩
      simp at hi
    exact ⟨hcell .legacy, hcell .current⟩
  · obtain ⟨⟨v, hv⟩, -⟩ | ⟨hseed, hsec, hvar, -⟩ := exec_context h
    · have := hi v
      tauto
    · exact ⟨hseed, hsec, hvar⟩

/-- Settles O33: the changed cell is the one `exec_cell` commits. -/
theorem cellWrittenOnlyWhileEmpty : Obligations.CellWrittenOnlyWhileEmpty := by
  intro i s t u h hne
  obtain ⟨hi, hv, S, hS, -⟩ := (exec_cell h u).resolve_left hne
  exact ⟨hi, hv, by rw [hS]⟩

/-- A command in flight keeps the invariant. -/
theorem exec_inv {i : Instr} {s t : State} (hs : s.Inv) (hb : s.busy = true) (h : exec i s = .next t) : t.Inv where
  message := exec_wf hs.message h
  idle hidle := by
    obtain ⟨rfl, -⟩ | ⟨u, e, rfl, -⟩ := exec_finish_or_stall h
    · exact absurd (hb.symm.trans hidle) (by decide)
    · exact ⟨rfl, rfl⟩
  validCell v hv := by
    obtain hcell | ⟨-, -, S, hcell, hgood⟩ := exec_cell h v
    · rw [hcell] at hv ⊢
      exact hs.validCell v hv
    · rw [hcell]
      exact hgood
  emptyCell v hv := by
    obtain hcell | ⟨-, -, S, hcell, -⟩ := exec_cell h v
    · rw [hcell] at hv ⊢
      exact hs.emptyCell v hv
    · exact absurd hv (by simp [hcell])
  unseeded hp := by
    obtain ⟨v, -, hp'⟩ | ⟨hvalid, hvar, hstate⟩ := exec_generator h
    · exact absurd (hp'.symm.trans hp) (by decide)
    · rw [hvalid] at hp
      rw [hvar, hstate.resolve_right (by simp [hp])]
      exact hs.unseeded hp
  noContext hp := by
    obtain ⟨-, hp'⟩ | ⟨hseed, hsec, hvar, ⟨hphase, hmsg, hlen⟩ | ⟨-, hp'⟩⟩ := exec_context h
    · exact absurd (hp'.symm.trans hp) (by decide)
    · rw [hseed, hsec, hvar, hmsg, hlen]
      exact hs.noContext (hphase ▸ hp)
    · exact absurd hp hp'

end Sys2Proof.Machine
end

section
/-! PROOF. What a step can do to the state, said once, and the statements about every step that follow from it: `BUSY`
and `OVR` (10_state.md R36, R37), the secret cells (R51) and the invariant. -/

namespace Sys2Proof.Machine

/-- Everything a step that answers a next state can do; `is`, `rs`, `fs` and `n` stand for what is not WYCORE's own
(20_memory.md R76, log 1, log 6, log 7, log 9). -/
inductive StepEffect (s : State) : State → Prop
  | outside (is : List Input) (rs : List Word) (fs : List Fault) (n : Nat) :
    StepEffect s { s with inputs := is, reads := rs, faults := fs, freeCount := n }
  | drops {r : Reg} {x : Word} {rest : List Input} (hi : s.inputs = .access (.write 64 r.offset x) :: rest)
    (hw : r.writable = true) (hr : r ≠ .status) (hb : s.busy = true) :
    StepEffect s ({ s with inputs := rest } : State).overrun
  | issues {w : Word} {rest : List Input} (hi : s.inputs = .access (.write 64 0x00 w) :: rest) (hb : s.busy = false) :
    StepEffect s (({ s with inputs := rest } : State).issue w)
  | clears {x : Word} {rest : List Input} (hi : s.inputs = .access (.write 64 0x08 x) :: rest)
    (hx : x.getLsbD 1 = true) :
    StepEffect s { s with inputs := rest, ovr := false }
  | setsArg (r : Reg) (x : Word) (rest : List Input) (hb : s.busy = false) :
    StepEffect s (({ s with inputs := rest } : State).setArg r x)
  | answered (a : Answer) (rest : List Input) (hb : s.busy = true) :
    StepEffect s { s with inputs := rest, answers := s.answers ++ [a] }
  | core {rest : List Input} {t : State} (hi : s.inputs = [] ∨ s.inputs = .core :: rest) (hb : s.busy = true)
    (ht : coreTurn { s with inputs := rest } = .next t) : StepEffect s t
  | resets {rest : List Input} (hi : s.inputs = .reset :: rest) :
    StepEffect s ({ s with inputs := rest } : State).resetBlock

/-- CORE's turn as a step: with no command in flight it leaves WYCORE as it is (60_exceptions.md R316). -/
theorem coreTurn_effect {s t : State} {rest : List Input} (hi : s.inputs = [] ∨ s.inputs = .core :: rest)
    (h : coreTurn { s with inputs := rest } = .next t) : StepEffect s t := by
  cases hb : s.busy with
  | true => exact .core hi hb h
  | false =>
    obtain ⟨-, ht⟩ | ⟨hb', -⟩ | ⟨_, _, hb', -⟩ := coreTurn_cases { s with inputs := rest }
    · cases ht.symm.trans h
      exact .outside rest _ _ _
    · exact absurd (hb.symm.trans hb') (by decide)
    · exact absurd (hb.symm.trans hb') (by decide)

/-- An access as a step: a read and a refused access reach nothing of WYCORE, a write does one of four things
(20_memory.md R74, R76, 40_control.md R130 to R132, R138). -/
theorem hostStep_effect {s t : State} {a : Access} {rest : List Input} (hi : s.inputs = .access a :: rest)
    (h : hostStep a { s with inputs := rest } = .next t) : StepEffect s t := by
  obtain ⟨-, ht⟩ | ⟨r, rfl, ht⟩ | ⟨r, x, rfl, hw, ht⟩ := hostStep_cases a { s with inputs := rest } <;>
    cases ht.symm.trans h
  · exact .outside rest _ _ _
  · exact .outside rest _ _ _
  · obtain h | ⟨hr, hb, h⟩ | ⟨rfl, hb, h⟩ | ⟨rfl, hx, h⟩ | ⟨-, -, hb, h⟩ :=
      busWrite_cases hw x { s with inputs := rest } <;> rw [h]
    · exact .outside rest _ _ _
    · exact .drops hi hw hr hb
    · exact .issues hi hb
    · exact .clears hi hx
    · exact .setsArg r x rest hb

/-- Every step that answers a next state does one of these (20_memory.md R84). -/
theorem step_effect {s t : State} (h : step s = .next t) : StepEffect s t := by
  obtain ⟨hi, hs⟩ | ⟨i, rest, hi, hs⟩ := step_cases s <;> rw [hs] at h
  · refine coreTurn_effect (rest := []) (.inl hi) ?_
    rwa [← hi]
  · cases i with
    | access a => exact hostStep_effect hi h
    | core => exact coreTurn_effect (.inr hi) h
    | reset => cases h; exact .resets hi
    | secondHost a => cases h
    | wait =>
      cases h
      unfold waitPoll
      split <;> exact .outside _ _ _ _
    | expectErr k =>
      cases h
      unfold expectErr
      split <;> exact .outside _ _ _ _
    | answer a =>
      cases h
      unfold takeAnswer
      split
      · next hb => exact .answered a rest hb
      · exact .outside _ _ _ _

/-- A step in which HOST writes a writable register. -/
theorem step_write {s : State} {r : Reg} {x : Word} {rest : List Input} (hw : r.writable = true)
    (hi : s.inputs = .access (.write 64 r.offset x) :: rest) :
    step s = .next (busWrite r x { s with inputs := rest }) := by
  simp [step, hi, move, hostStep, hostAccess, Reg.reached_offset, hw]

/-- A step that is a reset event. -/
theorem step_reset {s : State} {rest : List Input} (hi : s.inputs = .reset :: rest) :
    step s = .next ({ s with inputs := rest } : State).resetBlock := by
  simp [step, hi, move]

/-- A write to `CMD` leaves the block busy: it issues or it is dropped (40_control.md R130, R131). -/
theorem busWrite_cmd_busy (x : Word) (s : State) : (busWrite .cmd x s).busy = true := by
  cases hb : s.busy <;> simp [busWrite, writeCmd, hb]

/-- A write to `CMD` or an operand while busy is dropped (40_control.md R131, R132). -/
theorem busWrite_of_busy {r : Reg} (hw : r.writable = true) (hr : r ≠ .status) (x : Word) {s : State}
    (hb : s.busy = true) : busWrite r x s = s.overrun := by
  cases r with
  | cmd => exact if_pos hb
  | arg0 | arg1 | arg2 | arg3 | arg4 => exact if_pos hb
  | status => exact absurd rfl hr
  | _ => exact absurd hw (by decide)

/-- The offsets of `CMD` and of the operands (20_memory.md R72). -/
theorem mem_droppedOffsets_iff {off : Nat} :
    off ∈ [0x00, 0x10, 0x18, 0x20, 0x28, 0x30] ↔ ∃ r : Reg, r.writable = true ∧ r ≠ .status ∧ r.offset = off := by
  constructor
  · simp only [List.mem_cons, List.not_mem_nil, or_false]
    rintro (rfl | rfl | rfl | rfl | rfl | rfl)
    exacts [⟨.cmd, by decide⟩, ⟨.arg0, by decide⟩, ⟨.arg1, by decide⟩, ⟨.arg2, by decide⟩, ⟨.arg3, by decide⟩,
      ⟨.arg4, by decide⟩]
  · rintro ⟨r, hw, hr, rfl⟩
    revert hw hr
    cases r <;> decide

/-- Settles O13: issue computed forwards, and the effects of a step that change `BUSY`. -/
theorem busyChangesOnlyAtIssueAndCompletion : Obligations.BusyChangesOnlyAtIssueAndCompletion := by
  intro s t h
  refine ⟨fun w rest hi => ?_, fun hne => ?_⟩
  · cases (step_write (r := .cmd) rfl hi).symm.trans h
    exact busWrite_cmd_busy _ _
  · cases step_effect h with
    | issues hi hb => exact .inl ⟨hb, _, _, hi, rfl⟩
    | core hi hb ht => exact .inr (.inl ⟨hb, hi.imp_right fun hi => ⟨_, hi⟩⟩)
    | resets hi => exact .inr (.inr ⟨_, hi⟩)
    | _ => exact absurd (by simp) hne

/-- CORE's turn leaves `OVR` (10_state.md R37). -/
theorem coreTurn_ovr {s t : State} (h : coreTurn s = .next t) : t.ovr = s.ovr := by
  obtain ⟨-, ht⟩ | ⟨-, -, ht⟩ | ⟨i, u, -, -, hu, ht⟩ := coreTurn_cases s <;> cases ht.symm.trans h
  · rfl
  · rfl
  · obtain ⟨rfl, -⟩ | ⟨u, e, rfl, -, hovr, -⟩ := exec_finish_or_stall hu
    · rfl
    · exact hovr

/-- Settles O14: the writes and reset computed forwards, and the other effects of a step one by one. -/
theorem overrunSetAndCleared : Obligations.OverrunSetAndCleared := by
  intro s t h
  refine ⟨?set, ?cleared, ?kept⟩
  case set =>
    rintro ⟨hb, off, x, rest, hi, hoff⟩
    obtain ⟨r, hw, hr, rfl⟩ := mem_droppedOffsets_iff.mp hoff
    cases (step_write hw hi).symm.trans h
    exact congrArg State.ovr (busWrite_of_busy (s := { s with inputs := rest }) hw hr x hb)
  case cleared =>
    rintro (⟨x, rest, hi, hx⟩ | ⟨rest, hi⟩)
    · cases (step_write (r := .status) rfl hi).symm.trans h
      simp [busWrite, writeStatus, hx]
    · cases (step_reset hi).symm.trans h
      rfl
  case kept =>
    rintro ⟨hset, hclear⟩
    cases step_effect h with
    | drops hi hw hr hb => exact absurd ⟨hb, _, _, _, hi, mem_droppedOffsets_iff.mpr ⟨_, hw, hr, rfl⟩⟩ hset
    | clears hi hx => exact absurd (.inl ⟨_, _, hi, hx⟩) hclear
    | resets hi => exact absurd (.inr ⟨_, hi⟩) hclear
    | core hi hb ht => exact (coreTurn_ovr ht :)
    | _ => simp

/-- CORE's turn leaves a valid cell as it is (10_state.md R51). -/
theorem coreTurn_validCell {s t : State} {u : Variant} (hv : (s.cell u).valid = true) (h : coreTurn s = .next t) :
    t.cell u = s.cell u := by
  obtain ⟨-, ht⟩ | ⟨-, -, ht⟩ | ⟨i, t', -, -, hexec, ht⟩ := coreTurn_cases s <;> cases ht.symm.trans h
  · rfl
  · exact s.finish_cell _ u
  · refine (exec_cell hexec u).resolve_right ?_
    rintro ⟨-, hempty, -⟩
    exact absurd (hv.symm.trans hempty) (by decide)

/-- The cells do not depend on the moves to come. -/
theorem cell_inputs (s : State) (rest : List Input) (u : Variant) :
    ({ s with inputs := rest } : State).cell u = s.cell u := by cases u <;> rfl

/-- Settles O34: of the effects of a step but reset, only CORE's turn can reach a cell. -/
theorem validCellStaysUntilReset : Obligations.ValidCellStaysUntilReset := by
  intro s t u h hv hnoreset
  cases step_effect h with
  | core hi hb ht =>
    rw [coreTurn_validCell (by rwa [cell_inputs]) ht, cell_inputs]
  | resets hi => exact absurd hi (hnoreset _)
  | setsArg | drops | issues => simp [cell_inputs]
  | _ => cases u <;> rfl

/-- The invariant is about neither the operands nor `OVR` nor what is not WYCORE's own. -/
theorem State.Inv.of_eq_elsewhere {s t : State} (hs : s.Inv)
    (ht : t = { s with arg0 := t.arg0, arg1 := t.arg1, arg2 := t.arg2, arg3 := t.arg3, arg4 := t.arg4, ovr := t.ovr,
                       inputs := t.inputs, reads := t.reads, faults := t.faults, freeCount := t.freeCount }) :
    t.Inv := by
  rw [ht]
  exact ⟨hs.message, hs.idle, hs.validCell, hs.emptyCell, hs.unseeded, hs.noContext⟩

/-- CORE's turn keeps the invariant. -/
theorem coreTurn_inv {s t : State} (hs : s.Inv) (h : coreTurn s = .next t) : t.Inv := by
  obtain ⟨-, ht⟩ | ⟨-, -, ht⟩ | ⟨i, u, hb, -, hu, ht⟩ := coreTurn_cases s <;> cases ht.symm.trans h
  · exact hs
  · exact { hs with idle := fun _ => ⟨rfl, rfl⟩ }
  · exact exec_inv hs hb hu

/-- Settles O59: CORE's turn by the meaning of its command, reset by the state it leaves, and the other effects of a
step because they reach nothing the invariant is about, or leave the block busy. -/
theorem stepKeepsInvariant : Obligations.StepKeepsInvariant := by
  intro s t hs h
  cases step_effect h with
  | outside | drops | clears => exact hs.of_eq_elsewhere rfl
  | setsArg r x rest => exact hs.of_eq_elsewhere (by cases r <;> rfl)
  | issues => exact { hs with idle := fun hidle => absurd hidle (by simp) }
  | answered a rest hb => exact { hs with idle := fun hidle => absurd (hb.symm.trans hidle) (by decide) }
  | core hi hb ht => exact coreTurn_inv (hs.of_eq_elsewhere rfl) ht
  | resets => exact resetBlock_inv _

end Sys2Proof.Machine
end

section
/-! PROOF. The register window (20_memory.md R71 to R78): which accesses are legal, what a read returns, how the bytes
lie, and the bus errors of HOST's steps (R74). -/

namespace Sys2Proof.Machine

/-- The offsets that carry a register (20_memory.md R72). -/
theorem Reg.exists_offset_iff (off : Nat) : (∃ r : Reg, r.offset = off) ↔ off % 8 = 0 ∧ off ≤ 0x98 ∧ off ≠ 0x38 := by
  constructor
  · rintro ⟨r, rfl⟩
    cases r <;> decide
  · rintro ⟨h8, hle, hne⟩
    have hall : ∀ q < 20, q ≠ 7 → (Reg.ofOffset (q * 8)).isSome = true := by decide
    obtain ⟨r, hr⟩ := Option.isSome_iff_exists.mp (hall (off / 8) (by omega) (by omega))
    rw [Nat.div_mul_cancel (Nat.dvd_of_mod_eq_zero h8)] at hr
    exact ⟨r, by simpa using List.find?_some hr⟩

/-- The writable registers stand at the low offsets (20_memory.md R72). -/
theorem Reg.writable_iff (r : Reg) : r.writable = true ↔ r.offset ≤ 0x30 := by cases r <;> decide

/-- The accesses that reach a register (20_memory.md R72, R73). -/
theorem Reg.reached_eq_some_iff {width off : Nat} {r : Reg} :
    Reg.reached width off = some r ↔ width = 64 ∧ r.offset = off :=
  ⟨fun h => (Reg.reached_some h).imp_right Eq.symm, by rintro ⟨rfl, rfl⟩; exact r.reached_offset⟩

/-- The legal reads (20_memory.md R72, R73). -/
theorem legal_read_iff (width off : Nat) :
    (Access.read width off).legal = true ↔ width = 64 ∧ off % 8 = 0 ∧ off ≤ 0x98 ∧ off ≠ 0x38 := by
  simp only [Access.legal, Option.isSome_iff_exists, Reg.reached_eq_some_iff, exists_and_left,
    Reg.exists_offset_iff]

/-- The legal writes (20_memory.md R72, R73). -/
theorem legal_write_iff (width off : Nat) (x : Word) :
    (Access.write width off x).legal = true ↔ width = 64 ∧ off % 8 = 0 ∧ off ≤ 0x30 := by
  have hreg : (∃ r : Reg, r.offset = off ∧ r.offset ≤ 0x30) ↔ off % 8 = 0 ∧ off ≤ 0x30 := by
    constructor
    · rintro ⟨r, rfl, hle⟩
      exact ⟨((Reg.exists_offset_iff _).mp ⟨r, rfl⟩).1, hle⟩
    · rintro ⟨h8, hle⟩
      obtain ⟨r, rfl⟩ := (Reg.exists_offset_iff off).mpr ⟨h8, by omega, by omega⟩
      exact ⟨r, rfl, hle⟩
  simp only [Access.legal, Option.any_eq_true, Reg.reached_eq_some_iff, Reg.writable_iff, and_assoc, exists_and_left,
    hreg]

/-- A legal access is answered (20_memory.md R76). -/
theorem hostAccess_of_legal {a : Access} (ha : a.legal = true) (s : State) : ∃ t, hostAccess a s = .next t := by
  obtain ⟨hl, -⟩ | ⟨r, -, h⟩ | ⟨r, x, -, -, h⟩ := hostAccess_cases a s
  · exact absurd (ha.symm.trans hl) (by decide)
  · exact ⟨_, h⟩
  · exact ⟨_, h⟩

/-- An illegal access is a bus error that names it (20_memory.md R74). -/
theorem hostAccess_of_illegal {a : Access} (ha : a.legal = false) (s : State) :
    hostAccess a s = .fault (.busError a) := by
  obtain ⟨-, h⟩ | ⟨r, rfl, -⟩ | ⟨r, x, rfl, hw, -⟩ := hostAccess_cases a s
  · exact h
  · simp [Access.legal, Reg.reached_offset] at ha
  · simp [Access.legal, Reg.reached_offset, hw] at ha

/-- The accesses that are answered are the legal ones. -/
theorem hostAccess_next_iff (a : Access) (s : State) : (∃ t, hostAccess a s = .next t) ↔ a.legal = true := by
  refine ⟨fun ⟨t, h⟩ => ?_, fun ha => hostAccess_of_legal ha s⟩
  by_contra ha
  rw [hostAccess_of_illegal (by simpa using ha)] at h
  cases h

/-- A HOST read of a register (20_memory.md R72). -/
theorem hostAccess_read (r : Reg) (s : State) : hostAccess (.read 64 r.offset) s = .next (busRead r s) := by
  simp [hostAccess, Reg.reached_offset]

/-- An exact read (20_memory.md R76, R78). -/
theorem busRead_exact {r : Reg} {s : State} (h : r.exactWhileBusy = true ∨ s.busy = false) :
    busRead r s = { s with reads := s.regValue Config.params r :: s.reads } := by
  have hfree : ¬(s.busy && !r.exactWhileBusy) = true := by
    obtain h | h := h <;> simp [h]
  rw [busRead, busReadValue, if_neg hfree, if_neg hfree]

/-- A read of a result or state register while a command is in flight (20_memory.md R78, log 6). -/
theorem busRead_unspecified {r : Reg} {s : State} (hr : r.exactWhileBusy = false) (hb : s.busy = true) :
    busRead r s =
      { s with reads := Config.unspecifiedRead s.freeCount :: s.reads, freeCount := s.freeCount + 1 } := by
  have hfree : (s.busy && !r.exactWhileBusy) = true := by simp [hr, hb]
  rw [busRead, busReadValue, if_pos hfree, if_pos hfree]

/-- Settles O36: the two lists are the registers read exactly at any time, and the others. -/
theorem readsReturnRegisters : Obligations.ReadsReturnRegisters := by
  intro s
  constructor
  · change ∀ p ∈ (Reg.all.filter Reg.exactWhileBusy).map fun r => (r.offset, s.regValue Config.params r), _
    rw [List.forall_mem_map]
    intro r hr
    rw [hostAccess_read, busRead_exact (.inl (List.mem_filter.mp hr).2)]
  · change ∀ p ∈ (Reg.all.filter (! Reg.exactWhileBusy ·)).map fun r => (r.offset, s.regValue Config.params r), _
    rw [List.forall_mem_map]
    intro r hr
    have hexact : r.exactWhileBusy = false := by simpa using (List.mem_filter.mp hr).2
    rw [hostAccess_read]
    exact ⟨fun hb => by rw [busRead_exact (.inr hb)], fun hb => by rw [busRead_unspecified hexact hb]⟩

/-- An offset within the window is that of its address (20_memory.md R71). -/
theorem windowOffset_add (base : Nat) {off : Nat} (h : off < 256) : windowOffset base (base + off) = some off := by
  rw [windowOffset, if_pos (by omega), Nat.add_sub_cancel_left]

/-- Every register is the one at its offset. -/
theorem Reg.ofOffset_offset (r : Reg) : Reg.ofOffset r.offset = some r := by cases r <;> rfl

/-- Settles O40: an offset is a multiple of 8 well below 256, so the byte's own offset divides into it and `k`. -/
theorem windowBytesLittleEndian : Obligations.WindowBytesLittleEndian := by
  intro P s base k r hk
  obtain ⟨h8, hle, -⟩ := (Reg.exists_offset_iff r.offset).mp ⟨r, rfl⟩
  have hreg : (r.offset + k) / 8 * 8 = r.offset := by omega
  have hbyte : (r.offset + k) % 8 = k := by omega
  rw [windowByte, Nat.add_assoc, windowOffset_add base (by omega), Option.bind_some, hreg, hbyte,
    Reg.ofOffset_offset, Option.map_some, byteOf]

end Sys2Proof.Machine
end

section
/-! PROOF. What a step does to what is not WYCORE's own: the faults of HOST's steps (20_memory.md R74, 60_exceptions.md
R305) and the moves to come (log 1); and that only a second HOST stops the machine (60_exceptions.md R314). -/

namespace Sys2Proof.Machine

/-- A step of HOST that makes an illegal access records the bus error (20_memory.md R74). -/
theorem hostStep_of_illegal {a : Access} (ha : a.legal = false) (s : State) :
    hostStep a s = .next (s.recordFault (.busError a)) := by
  rw [hostStep, hostAccess_of_illegal ha]

/-- A write leaves the moves to come. -/
theorem busWrite_inputs {r : Reg} (hw : r.writable = true) (x : Word) (s : State) :
    (busWrite r x s).inputs = s.inputs := by
  obtain h | ⟨-, -, h⟩ | ⟨-, -, h⟩ | ⟨-, -, h⟩ | ⟨-, -, -, h⟩ := busWrite_cases hw x s <;> rw [h]
  · exact s.overrun_inputs
  · exact s.issue_inputs x
  · exact s.setArg_inputs r x

/-- CORE's turn leaves the moves to come and the faults. -/
theorem coreTurn_inputs_faults {s t : State} (h : coreTurn s = .next t) : t.inputs = s.inputs ∧ t.faults = s.faults := by
  obtain ⟨-, ht⟩ | ⟨-, -, ht⟩ | ⟨i, u, -, -, hu, ht⟩ := coreTurn_cases s <;> cases ht.symm.trans h
  · exact ⟨rfl, rfl⟩
  · exact ⟨rfl, rfl⟩
  · obtain ⟨rfl, -⟩ | ⟨u, e, rfl, -, -, hinputs, -, hfaults, -⟩ := exec_finish_or_stall hu
    · exact ⟨rfl, rfl⟩
    · exact ⟨hinputs, hfaults⟩

/-- CORE's turn answers a next state (60_exceptions.md R300). -/
theorem coreTurn_next (s : State) : ∃ t, coreTurn s = .next t := by
  obtain ⟨-, h⟩ | ⟨-, -, h⟩ | ⟨_, _, -, -, -, h⟩ := coreTurn_cases s <;> exact ⟨_, h⟩

/-- A step of HOST answers a next state, refused accesses included (20_memory.md R74). -/
theorem hostStep_next (a : Access) (s : State) : ∃ t, hostStep a s = .next t := by
  obtain ⟨-, h⟩ | ⟨_, -, h⟩ | ⟨_, _, -, -, h⟩ := hostStep_cases a s <;> exact ⟨_, h⟩

/-- The only move that stops the machine is a second HOST's (60_exceptions.md R314). -/
theorem move_next {i : Input} (hi : i.oneHost = true) (s : State) : ∃ t, move i s = .next t := by
  cases i with
  | access a => exact hostStep_next a s
  | core => exact coreTurn_next s
  | secondHost a => cases hi
  | wait | expectErr | answer | reset => exact ⟨_, rfl⟩

/-- A move adds no others to the moves to come than CORE's turn and the poll that `WAIT` repeats (log 10). -/
theorem move_inputs_subset {i : Input} {s t : State} (h : move i s = .next t) :
    t.inputs ⊆ .core :: .wait :: s.inputs := by
  have hkept {u : State} (hu : u.inputs = s.inputs) : u.inputs ⊆ .core :: .wait :: s.inputs := by
    rw [hu]
    exact List.subset_cons_of_subset _ (List.subset_cons_self _ _)
  cases i with
  | access a =>
    obtain ⟨-, ht⟩ | ⟨r, -, ht⟩ | ⟨r, x, -, hw, ht⟩ := hostStep_cases a s <;> cases ht.symm.trans h
    · exact hkept rfl
    · exact hkept rfl
    · exact hkept (busWrite_inputs hw x s)
  | core => exact hkept (coreTurn_inputs_faults h).1
  | reset => cases h; exact hkept rfl
  | secondHost a => cases h
  | wait =>
    cases h
    unfold waitPoll
    split
    · exact List.Subset.refl _
    · exact hkept rfl
  | expectErr k =>
    cases h
    unfold expectErr
    split
    · exact hkept rfl
    · exact List.Subset.trans (List.filter_subset_self _) (hkept rfl)
  | answer a =>
    cases h
    unfold takeAnswer
    split <;> exact hkept rfl

/-- A move records a fault exactly where it is an illegal access, and clears none (20_memory.md R74). -/
theorem move_faults {i : Input} {s t : State} (h : move i s = .next t) :
    t.faults = s.faults ∨ ∃ a, i = .access a ∧ a.legal = false ∧ t.faults = .busError a :: s.faults := by
  cases i with
  | access a =>
    obtain ⟨ha, ht⟩ | ⟨r, -, ht⟩ | ⟨r, x, -, hw, ht⟩ := hostStep_cases a s <;> cases ht.symm.trans h
    · exact .inr ⟨a, rfl, ha, rfl⟩
    · exact .inl rfl
    · exact .inl (busWrite_faults r x s)
  | core => exact .inl (coreTurn_inputs_faults h).2
  | reset => cases h; exact .inl rfl
  | secondHost a => cases h
  | wait =>
    cases h
    unfold waitPoll
    split <;> exact .inl rfl
  | expectErr k =>
    cases h
    unfold expectErr
    split <;> exact .inl rfl
  | answer a =>
    cases h
    unfold takeAnswer
    split <;> exact .inl rfl

/-- A step records a fault exactly where it makes an illegal access, and clears none (20_memory.md R74). -/
theorem step_faults {s t : State} (h : step s = .next t) :
    t.faults = s.faults ∨
      ∃ a rest, s.inputs = .access a :: rest ∧ a.legal = false ∧ t.faults = .busError a :: s.faults := by
  obtain ⟨-, hs⟩ | ⟨i, rest, hi, hs⟩ := step_cases s <;> rw [hs] at h
  · exact .inl (coreTurn_inputs_faults h).2
  · obtain hfaults | ⟨a, rfl, ha, hfaults⟩ := move_faults h
    · exact .inl hfaults
    · exact .inr ⟨a, rest, hi, ha, hfaults⟩

/-- A step that makes an illegal access records it and changes nothing of WYCORE (20_memory.md R74, 60_exceptions.md
R305). -/
theorem step_of_illegal {s : State} {a : Access} {rest : List Input} (hi : s.inputs = .access a :: rest)
    (ha : a.legal = false) : step s = .next { s with inputs := rest, faults := .busError a :: s.faults } := by
  simp [step, hi, move, hostStep_of_illegal ha, State.recordFault]

/-- Settles O37: an access is answered exactly if it is legal, and the steps that record a fault are those that make an
illegal one. -/
theorem busErrorsExactly : Obligations.BusErrorsExactly := by
  intro s width off x
  simp only [hostAccess_next_iff, Bool.not_eq_true]
  exact ⟨legal_read_iff width off, legal_write_iff width off x,
    fun a ha => ⟨hostAccess_of_illegal ha s, fun rest hi => step_of_illegal hi ha⟩, fun t h => step_faults h⟩

/-- A state with no second HOST's move to come answers a next state (60_exceptions.md R314). -/
theorem step_next {s : State} (hs : s.oneHost = true) : ∃ t, step s = .next t := by
  obtain ⟨-, h⟩ | ⟨i, rest, hi, h⟩ := step_cases s <;> rw [h]
  · exact coreTurn_next s
  · rw [State.oneHost, hi, List.all_cons, Bool.and_eq_true] at hs
    exact move_next hs.1 _

/-- What holds of all the moves to come, and of the two that `WAIT` adds, still does after a step. -/
theorem step_inputs_all {p : Input → Bool} (hcore : p .core = true) (hwait : p .wait = true) {s t : State}
    (hs : s.inputs.all p = true) (h : step s = .next t) : t.inputs.all p = true := by
  obtain ⟨-, h'⟩ | ⟨i, rest, hi, h'⟩ := step_cases s <;> rw [h'] at h
  · rwa [(coreTurn_inputs_faults h).1]
  · rw [hi, List.all_cons, Bool.and_eq_true] at hs
    have hall : (Input.core :: .wait :: rest).all p = true := by simp [hcore, hwait, hs.2]
    rw [List.all_eq_true] at hall ⊢
    exact fun j hj => hall j (move_inputs_subset h hj)

/-- A state with no second HOST goes on to another. -/
theorem step_oneHost {s : State} (hs : s.oneHost = true) : ∃ t, step s = .next t ∧ t.oneHost = true := by
  obtain ⟨t, h⟩ := step_next hs
  exact ⟨t, h, step_inputs_all rfl rfl hs h⟩

/-- A clean state has no second HOST. -/
theorem oneHost_of_clean {s : State} (hs : s.clean = true) : s.oneHost = true := by
  rw [State.clean, List.all_eq_true] at hs
  rw [State.oneHost, List.all_eq_true]
  intro i hi
  cases i with
  | secondHost a => exact hs _ hi
  | _ => rfl

/-- A clean state goes on to another, and no fault is recorded. -/
theorem step_clean {s : State} (hs : s.clean = true) :
    ∃ t, step s = .next t ∧ t.clean = true ∧ t.faults = s.faults := by
  obtain ⟨t, h⟩ := step_next (oneHost_of_clean hs)
  refine ⟨t, h, step_inputs_all rfl rfl hs h, (step_faults h).resolve_right ?_⟩
  rintro ⟨a, rest, hi, ha, -⟩
  simp [State.clean, hi, Input.clean, ha] at hs

/-- What every step goes on with and keeps, every run goes on with and keeps. -/
theorem run_of_step {p : State → Prop} (hstep : ∀ s, p s → ∃ t, step s = .next t ∧ p t) (k : Nat) {s : State}
    (hs : p s) : ∃ t : State, Sys2Proof.core.run k s = .next t ∧ p t := by
  induction k generalizing s with
  | zero => exact ⟨s, rfl, hs⟩
  | succ k ih =>
    obtain ⟨u, hu, hpu⟩ := hstep s hs
    rw [run_succ k hu]
    exact ih hpu

/-- Settles O60: both kinds of state are kept by every step, the second with the faults it began with. -/
theorem cleanRunNeverStops : Obligations.CleanRunNeverStops := by
  refine fun s k => ⟨run_of_step (fun _ => step_oneHost) k, fun hs => ?_⟩
  refine run_of_step (p := fun t => t.clean = true ∧ t.faults = s.faults) ?_ k ⟨hs, rfl⟩
  rintro u ⟨hu, hfaults⟩
  obtain ⟨t, ht, hclean, hkept⟩ := step_clean hu
  exact ⟨t, ht, hclean, hkept.trans hfaults⟩

end Sys2Proof.Machine
end

section
/-! PROOF. The decoder and the encoder agree (30_encoding.md R101 to R110): a word decodes to a command exactly if it
carries the command's fields, and the fields make up the word. -/

namespace Sys2Proof

/-- The word carries a command's opcode, variant bit and count, and zero in every reserved field (30_encoding.md
R101). -/
def Instr.CarriedBy (i : Instr) (w : Word) : Prop :=
  opField w = i.op.code ∧ vField w = i.vBit ∧ cntField w = i.cnt ∧
    z7Field w = false ∧ z31Field w = 0 ∧ z63Field w = 0

/-- The encoder writes the command's fields (30_encoding.md R109). -/
theorem carriedBy_encode (i : Instr) : i.CarriedBy (encode i) := by
  cases i with
  | nop => exact Laws.WordFields.nop
  | mum => exact Laws.WordFields.mum
  | mix => exact Laws.WordFields.mix
  | pseed v => exact Laws.WordFields.pseed v
  | pnext => exact Laws.WordFields.pnext
  | hinit v => exact Laws.WordFields.hinit v
  | hinitd v => exact Laws.WordFields.hinitd v
  | hinitrf v => exact Laws.WordFields.hinitrf v
  | hinitrp v => exact Laws.WordFields.hinitrp v
  | habs c => exact Laws.WordFields.habs c
  | hfin => exact Laws.WordFields.hfin
  | rseed => exact Laws.WordFields.rseed
  | rsecret v => exact Laws.WordFields.rsecret v
  | schk => exact Laws.WordFields.schk

/-- A word is the concatenation of its fields (30_encoding.md R101). -/
theorem append_fields (w : Word) :
    z63Field w ++ z31Field w ++ cntField w ++ BitVec.ofBool (z7Field w) ++ BitVec.ofBool (vField w) ++ opField w = w := by
  apply BitVec.eq_of_toNat_eq
  simp only [Machine.toNat_append_eq, BitVec.toNat_ofBool, z63Field, z31Field, cntField, z7Field, vField, opField,
    BitVec.extractLsb'_toNat, Nat.shiftRight_eq_div_pow, BitVec.getLsbD, Nat.toNat_testBit]
  have := w.isLt
  omega

/-- The fields determine the word. -/
theorem Instr.CarriedBy.word_eq {i : Instr} {w w' : Word} (h : i.CarriedBy w) (h' : i.CarriedBy w') : w = w' := by
  obtain ⟨hop, hv, hcnt, h7, h31, h63⟩ := h
  obtain ⟨hop', hv', hcnt', h7', h31', h63'⟩ := h'
  rw [← append_fields w, ← append_fields w', hop, hv, hcnt, h7, h31, h63, hop', hv', hcnt', h7', h31', h63']

/-- The opcode map read backwards (30_encoding.md R102). -/
theorem Op.ofCode_eq_some_iff {b : BitVec 6} {o : Op} : Op.ofCode b = some o ↔ o.code = b := by
  constructor
  · intro h
    simpa using List.find?_some h
  · rintro rfl
    cases o <;> rfl

/-- No two opcodes have one code. -/
theorem Op.code_injective : Function.Injective Op.code := fun _ _ h =>
  Option.some.inj ((Op.ofCode_eq_some_iff.mpr h).symm.trans (Op.ofCode_eq_some_iff.mpr rfl))

@[simp] theorem Variant.ofBit_bit (v : Variant) : Variant.ofBit v.bit = v := by cases v <;> rfl

@[simp] theorem Variant.bit_ofBit (b : Bool) : (Variant.ofBit b).bit = b := by cases b <;> rfl

@[simp] theorem Instr.op_ofOp (v : Variant) (c : BitVec 4) (o : Op) : (Instr.ofOp v c o).op = o := by cases o <;> rfl

/-- The variant bit of a command with given fields (30_encoding.md R103). -/
theorem Instr.vBit_ofOp (v : Variant) (c : BitVec 4) (o : Op) :
    (Instr.ofOp v c o).vBit = if o.usesVariant then v.bit else false := by cases o <;> rfl

/-- The count of a command with given fields (30_encoding.md R104). -/
theorem Instr.cnt_ofOp (v : Variant) (c : BitVec 4) (o : Op) :
    (Instr.ofOp v c o).cnt = if o.usesCount then c else 0 := by cases o <;> rfl

/-- A command is the one with its own opcode, variant and count. -/
theorem Instr.ofOp_op (i : Instr) : Instr.ofOp (Variant.ofBit i.vBit) i.cnt i.op = i := by
  cases i <;> simp [ofOp, op, vBit, cnt]

/-- A well-formed command is one whose count is at most 8 (30_encoding.md R104). -/
theorem Instr.wellFormed_iff (i : Instr) : i.wellFormed = true ↔ i.cnt ≤ 8 := by
  cases i <;> simp [wellFormed, cnt]

/-- A command with a count of at most 8 is well formed, whether or not it uses the count. -/
theorem Instr.wellFormed_ofOp {v : Variant} {c : BitVec 4} {o : Op} (h : c ≤ 8) :
    (Instr.ofOp v c o).wellFormed = true := by
  rw [wellFormed_iff, cnt_ofOp]
  split_ifs
  · exact h
  · decide

/-- Only a command whose row uses `V` has the variant bit set (30_encoding.md R103). -/
theorem Instr.usesVariant_of_vBit {i : Instr} (h : i.vBit = true) : i.op.usesVariant = true := by
  cases i with
  | nop | mum | mix | pnext | habs _ | hfin | rseed | schk => cases h
  | _ => rfl

/-- A command whose row does not use `CNT` has the count 0 (30_encoding.md R104). -/
theorem Instr.cnt_eq_zero {i : Instr} (h : i.op.usesCount = false) : i.cnt = 0 := by
  cases i with
  | habs c => cases h
  | _ => rfl

/-- The fields of a word are those of a command with its opcode, where no field is set that the row does not use. -/
theorem carriedBy_ofOp {w : Word} {o : Op} (ho : o.code = opField w) (hv : vField w = true → o.usesVariant = true)
    (hc : o.usesCount = false → cntField w = 0) (h7 : z7Field w = false) (h31 : z31Field w = 0)
    (h63 : z63Field w = 0) : (Instr.ofOp (Variant.ofBit (vField w)) (cntField w) o).CarriedBy w := by
  refine ⟨by rw [Instr.op_ofOp, ho], ?_, ?_, h7, h31, h63⟩
  · rw [Instr.vBit_ofOp, Variant.bit_ofBit]
    split_ifs with hu
    · rfl
    · simpa [hu] using hv
  · rw [Instr.cnt_ofOp]
    split_ifs with hu
    · rfl
    · exact hc (by simpa using hu)

/-- The decoder accepts a word for a command exactly if the word carries it and it is well formed
(30_encoding.md R108). -/
theorem decode_eq_ok_iff_carriedBy {w : Word} {i : Instr} :
    decode w = .ok i ↔ i.CarriedBy w ∧ i.wellFormed = true := by
  constructor
  · intro h
    unfold decode at h
    split at h
    · cases h
    · next o ho =>
      split_ifs at h with h7 h31 h63 hv hc hb
      cases h
      exact ⟨carriedBy_ofOp (Op.ofCode_eq_some_iff.mp ho) (by simpa using hv) (by simpa using hc)
        (by simpa using h7) (by simpa using h31) (by simpa using h63), Instr.wellFormed_ofOp (by simpa using hb)⟩
  · rintro ⟨⟨hop, hv, hcnt, h7, h31, h63⟩, hwf⟩
    have hvar : ¬(i.vBit && !i.op.usesVariant) = true := by
      simpa using Instr.usesVariant_of_vBit
    have hcount : ¬(!i.op.usesCount && i.cnt != 0) = true := by
      simpa using Instr.cnt_eq_zero
    have hbound : ¬8 < i.cnt := by simpa using i.wellFormed_iff.mp hwf
    rw [decode, hop, Op.ofCode_eq_some_iff.mpr rfl]
    simp only [h7, h31, h63, hv, hcnt, if_neg hvar, if_neg hcount, if_neg hbound, Instr.ofOp_op]
    simp

/-- Settles O1: the encoder writes the fields the decoder reads. -/
theorem decodeOfEncode : Obligations.DecodeOfEncode :=
  fun i hwf => decode_eq_ok_iff_carriedBy.mpr ⟨carriedBy_encode i, hwf⟩

/-- Settles O2: the word carries the command's fields, and so does the encoder's word. -/
theorem encodeOfDecode : Obligations.EncodeOfDecode := by
  intro w i h
  obtain ⟨hcarried, hwf⟩ := decode_eq_ok_iff_carriedBy.mp h
  exact ⟨(carriedBy_encode i).word_eq hcarried, hwf⟩

/-- The decoder and the encoder are inverse to each other on the well-formed commands (30_encoding.md R109). -/
theorem decode_eq_ok_iff_encode {w : Word} {i : Instr} : decode w = .ok i ↔ encode i = w ∧ i.wellFormed = true := by
  constructor
  · exact encodeOfDecode w i
  · rintro ⟨rfl, hwf⟩
    exact decodeOfEncode i hwf

/-- Settles O4: every well-formed command stands in the list with its word, and the list holds nothing else. -/
theorem twentyEightLegalWords : Obligations.TwentyEightLegalWords := by
  intro w i
  rw [decode_eq_ok_iff_encode]
  constructor
  · rintro ⟨rfl, hwf⟩
    cases i with
    | nop | mum | mix | pnext | hfin | rseed | schk => decide
    | pseed v | hinit v | hinitd v | hinitrf v | hinitrp v | rsecret v => cases v <;> decide
    | habs c =>
      revert c
      decide
  · intro h
    simpa using (List.all_eq_true (p := fun p => decide (encode p.2 = p.1 ∧ p.2.wellFormed = true))).mp (by decide) _ h

/-- Settles O5: each word is the encoder's word of its command. -/
theorem familyWordsDecode : Obligations.FamilyWordsDecode := by
  simp only [Obligations.FamilyWordsDecode, decode_eq_ok_iff_encode]
  decide

/-- The reserved bits 63:12 are the two reserved fields (30_encoding.md R101). -/
theorem reservedBits_eq_zero_iff (w : Word) : w.extractLsb' 12 52 = 0 ↔ z31Field w = 0 ∧ z63Field w = 0 := by
  simp only [z31Field, z63Field, ← BitVec.toNat_inj, BitVec.extractLsb'_toNat, Nat.shiftRight_eq_div_pow,
    BitVec.ofNat_eq_ofNat, BitVec.toNat_ofNat]
  have := w.isLt
  omega

/-- The opcodes of 30_encoding.md R102. -/
theorem exists_op_code_iff (b : BitVec 6) :
    (∃ o : Op, o.code = b) ↔
      b.toNat ∈ [0x00, 0x01, 0x02, 0x08, 0x09, 0x10, 0x11, 0x12, 0x13, 0x14, 0x15, 0x18, 0x19, 0x1A] := by
  simp only [← Op.ofCode_eq_some_iff, ← Option.isSome_iff_exists]
  revert b
  decide

/-- The opcodes with a variant (30_encoding.md R102, R103). -/
theorem Op.usesVariant_iff (o : Op) :
    o.usesVariant = true ↔ o.code.toNat ∈ [0x08, 0x10, 0x11, 0x12, 0x13, 0x19] := by cases o <;> decide

/-- The opcode with a count (30_encoding.md R102, R104). -/
theorem Op.usesCount_iff (o : Op) : o.usesCount = true ↔ o.code.toNat = 0x14 := by cases o <;> decide

/-- The condition of 30_encoding.md R108 on `V`, by the column "V used" of R102. -/
theorem variant_legal_iff (o : Op) (v : Bool) :
    (v = false ∨ o.code.toNat ∈ [0x08, 0x10, 0x11, 0x12, 0x13, 0x19]) ↔ (v = true → o.usesVariant = true) := by
  rw [← Op.usesVariant_iff]
  cases v <;> simp

/-- The condition of 30_encoding.md R108 on `CNT`, by the column "CNT used" of R102. -/
theorem count_legal_iff (o : Op) (c : BitVec 4) :
    (if o.code.toNat ≠ 0x14 then c = 0 else c.toNat ≤ 8) ↔ (o.usesCount = false → c = 0) ∧ c ≤ 8 := by
  simp only [ne_eq, ← Op.usesCount_iff]
  cases o.usesCount with
  | true => simp [BitVec.le_def]
  | false => simp +contextual

/-- The words of the commands with opcode `o`, by the fields alone (30_encoding.md R108). -/
theorem exists_decode_iff {w : Word} {o : Op} (ho : o.code = opField w) :
    (∃ i, decode w = .ok i) ↔
      (z31Field w = 0 ∧ z63Field w = 0) ∧ z7Field w = false ∧ (vField w = true → o.usesVariant = true) ∧
        (o.usesCount = false → cntField w = 0) ∧ cntField w ≤ 8 := by
  simp only [decode_eq_ok_iff_carriedBy]
  constructor
  · rintro ⟨i, ⟨hop, hv, hcnt, h7, h31, h63⟩, hwf⟩
    obtain rfl := Op.code_injective (ho.trans hop)
    rw [hv, hcnt]
    exact ⟨⟨h31, h63⟩, h7, Instr.usesVariant_of_vBit, Instr.cnt_eq_zero, i.wellFormed_iff.mp hwf⟩
  · rintro ⟨⟨h31, h63⟩, h7, hv, hc, hbound⟩
    exact ⟨_, carriedBy_ofOp ho hv hc h7 h31 h63, Instr.wellFormed_ofOp hbound⟩

/-- Settles O3: the opcode is one of the table's, and its row says which fields may be set. -/
theorem legalWordCondition : Obligations.LegalWordCondition := by
  refine fun w => ⟨?_, fun i h => ?_⟩
  · change _ ↔ _ ∧ z7Field w = false ∧ (opField w).toNat ∈ _ ∧ (vField w = false ∨ (opField w).toNat ∈ _) ∧
      if (opField w).toNat ≠ 0x14 then cntField w = 0 else (cntField w).toNat ≤ 8
    rw [reservedBits_eq_zero_iff, ← exists_op_code_iff]
    constructor
    · rintro ⟨i, h⟩
      obtain ⟨⟨hop, -⟩, -⟩ := decode_eq_ok_iff_carriedBy.mp h
      obtain ⟨hz, h7, hv, hc⟩ := (exists_decode_iff hop.symm).mp ⟨i, h⟩
      rw [hop]
      exact ⟨hz, h7, ⟨_, rfl⟩, (variant_legal_iff _ _).mpr hv, (count_legal_iff _ _).mpr hc⟩
    · rintro ⟨hz, h7, ⟨o, ho⟩, hv, hc⟩
      rw [← ho] at hv hc
      exact (exists_decode_iff ho).mpr ⟨hz, h7, (variant_legal_iff _ _).mp hv, (count_legal_iff _ _).mp hc⟩
  · obtain ⟨⟨hop, hv, hcnt, -⟩, -⟩ := decode_eq_ok_iff_carriedBy.mp h
    exact ⟨hop.symm, hv.symm, hcnt.symm⟩

end Sys2Proof
end
section
/-! PROOF. What each command leaves unchanged, state field by state field (30_encoding.md R105), from the answers of each
meaning. -/

namespace Sys2Proof.Machine

/-- Settles O29: the answers of each of the commands, one by one. -/
theorem resultCommandsFrame : Obligations.ResultCommandsFrame := by
  intro s t
  refine ⟨fun h => ?nop, fun h => ?mum, ?res0, fun v h => ?rsecret⟩
  case nop => cases h; rfl
  case mum => cases h; rfl
  case res0 =>
    rintro (h | h | h)
    · cases h; rfl
    · cases h; rfl
    · cases h
      obtain h | h | ⟨r, h⟩ := rseed_cases s <;> rw [h] <;> rfl
  case rsecret =>
    cases h
    obtain h | ⟨e, -, h⟩ | ⟨S, g, -, h⟩ := rsecret_cases Config.params v s <;> rw [h] <;> rfl

/-- Settles O30: PSEED has one answer, PNEXT two. -/
theorem generatorCommandsFrame : Obligations.GeneratorCommandsFrame := by
  intro s t
  refine ⟨fun v h => ?pseed, fun h => ?pnext⟩
  case pseed => cases h; rfl
  case pnext =>
    cases h
    obtain ⟨-, h⟩ | ⟨-, h⟩ := pnext_cases Config.params s <;> rw [h] <;> rfl

/-- HINITRP writes the context and its own cell (44_random.md R255). -/
theorem hinitrp_frame {s t : State} {v : Variant} (h : exec (.hinitrp v) s = .next t) :
    t = { s.setCell v (t.cell v) with
          hseed := t.hseed, hsec := t.hsec, hvar := t.hvar, hphase := t.hphase, hmsg := t.hmsg,
          hlen := t.hlen, err := t.err, lastop := t.lastop, busy := t.busy, answers := t.answers,
          effort := t.effort } := by
  cases h
  obtain h | ⟨e, -, h⟩ | ⟨S, g, -, -, h⟩ | ⟨S, g, seed, g', -, -, h⟩ := hinitrp_cases Config.params v s <;> rw [h]
  all_goals cases v <;> rfl

/-- HABS appends at most as many bytes as its count, and writes nothing else but `HLEN` (43_hash.md R207). -/
theorem habs_frame {s t : State} {c : BitVec 4} (h : exec (.habs c) s = .next t) :
    t = { s with hmsg := t.hmsg, hlen := t.hlen, err := t.err, lastop := t.lastop, busy := t.busy,
                 answers := t.answers, effort := t.effort } ∧
      ∃ bs, t.hmsg = s.hmsg ++ bs ∧ bs.length ≤ c.toNat := by
  cases h
  obtain ⟨e, -, h⟩ | ⟨-, -, -, h⟩ := habs_cases c s <;> rw [h]
  · exact ⟨rfl, [], by simp⟩
  · exact ⟨rfl, packedBytes s.arg0 c.toNat, by simp⟩

/-- Settles O31: the answers of each of the commands; what HABS appends stands behind the old message. -/
theorem hashCommandsFrame : Obligations.HashCommandsFrame := by
  intro s t v
  refine ⟨?context, hinitrp_frame, fun c h => ?habs, fun h => ?hfin⟩
  case context =>
    rintro (h | h | h)
    · cases h; rfl
    · cases h; rfl
    · cases h
      obtain h | ⟨e, -, h⟩ | ⟨S, g, seed, g', -, -, h⟩ := hinitrf_cases Config.params v s <;> rw [h] <;> rfl
  case habs =>
    obtain ⟨hframe, bs, hmsg, hlen⟩ := habs_frame h
    refine ⟨hframe, fun k hk => ?_, fun k hk => ?_⟩
    · rw [hmsg, List.getElem?_append_left hk]
    · rw [hmsg, List.getElem?_eq_none (by rw [List.length_append]; omega)]
  case hfin =>
    cases h
    obtain ⟨-, h⟩ | ⟨-, h⟩ := hfin_cases Config.params s <;> rw [h] <;> rfl

end Sys2Proof.Machine
end

section
/-! PROOF. CORE's turn on an illegal word (30_encoding.md R106), and the run of an `EXEC` line (R112, R113). -/

namespace Sys2Proof.Machine

/-- CORE's turn on a word that is no command's (30_encoding.md R106). -/
theorem coreTurn_of_illegal {s : State} (hb : s.busy = true) (hd : ¬∃ i, decode s.ir = .ok i) :
    coreTurn s = .next (s.finish .illegal) := by
  obtain ⟨hb', -⟩ | ⟨-, -, h⟩ | ⟨i, t, -, hi, -⟩ := coreTurn_cases s
  · exact absurd (hb.symm.trans hb') (by decide)
  · exact h
  · exact absurd ⟨i, hi⟩ hd

/-- Settles O8: each of the conditions contradicts one of those of a legal word. -/
theorem illegalWordCompletesWithIllegal : Obligations.IllegalWordCompletesWithIllegal := by
  intro s hb hillegal
  refine ⟨_, coreTurn_of_illegal hb ?_, rfl⟩
  rw [(legalWordCondition s.ir).1]
  rintro ⟨hz, h7, hop, hv, hc⟩
  obtain hz' | h7' | hop' | ⟨hv', hop'⟩ | ⟨hc', hop'⟩ | ⟨hc', hop'⟩ := hillegal
  · exact hz' hz
  · exact absurd (h7.symm.trans h7') (by decide)
  · exact hop' hop
  · exact hop' (hv.resolve_left (by simp [hv']))
  · rw [if_pos hop'] at hc
    exact hc' hc
  · rw [if_neg (not_not_intro hop')] at hc
    omega

/-- A step in which CORE has its turn. -/
theorem step_core {s : State} {rest : List Input} (hi : s.inputs = .core :: rest) :
    step s = coreTurn { s with inputs := rest } := by
  simp [step, hi, move]

/-- CORE's turn on the word of a command in flight (40_control.md R133). -/
theorem coreTurn_of_decode {s : State} {i : Instr} (hb : s.busy = true) (hd : decode s.ir = .ok i) :
    coreTurn s = exec i s := by
  simp [coreTurn, hb, hd]

/-- Bit 0 of `STATUS`, which a poll of `WAIT` reads, is `BUSY` (10_state.md R35, 30_encoding.md R112). -/
theorem waitPoll_eq (s : State) :
    waitPoll s = if s.busy then { s with inputs := .core :: .wait :: s.inputs } else s := by
  rw [waitPoll, (statusFields s).1]

/-- A poll of `WAIT` while a command is in flight: CORE has a turn, then the next poll (30_encoding.md R112, log 10). -/
theorem step_wait_of_busy {s : State} {rest : List Input} (hi : s.inputs = .wait :: rest) (hb : s.busy = true) :
    step s = .next { s with inputs := .core :: .wait :: rest } := by
  simp [step, hi, move, waitPoll_eq, hb]

/-- The last poll of `WAIT` (30_encoding.md R112). -/
theorem step_wait_of_idle {s : State} {rest : List Input} (hi : s.inputs = .wait :: rest) (hb : s.busy = false) :
    step s = .next { s with inputs := rest } := by
  simp [step, hi, move, waitPoll_eq, hb]

/-- A step in which HOST issues a command (40_control.md R130). -/
theorem step_issue {s : State} {w : Word} {rest : List Input} (hb : s.busy = false)
    (hi : s.inputs = .access (.write 64 Reg.cmd.offset w) :: rest) :
    step s = .next { s with ir := w, busy := true, inputs := rest } := by
  rw [step_write (r := .cmd) rfl hi]
  simp [busWrite, writeCmd, hb, State.issue]

/-- Settles O12: issue, a poll while busy, CORE's turn, the last poll. -/
theorem execLineRunsCommand : Obligations.ExecLineRunsCommand := by
  intro s i rest hb hwf hd hi
  obtain ⟨t, ht⟩ := exec_next i { s with ir := encode i, busy := true, inputs := .wait :: rest }
  refine ⟨t, ht, ?_⟩
  have hturn : coreTurn { s with ir := encode i, busy := true, inputs := .wait :: rest } = .next t :=
    (coreTurn_of_decode rfl (decodeOfEncode i hwf)).trans ht
  have hrest : t.inputs = .wait :: rest := (coreTurn_inputs_faults hturn).1
  rw [run_succ 3 (step_issue hb hi), run_succ 2 (step_wait_of_busy rfl rfl),
    run_succ 1 ((step_core rfl).trans hturn), run_succ 0 (step_wait_of_idle hrest (exec_completes ht hd))]
  rfl

end Sys2Proof.Machine
end

section
/-! PROOF. The command cycle: CORE's turn as a step runs the command in flight, and what completion writes
(40_control.md R133); NOP (R137); the effect of each of HOST's writes (R130 to R132, R138). -/

namespace Sys2Proof.Machine

/-- With the list of moves used up, a step is CORE's turn (log 1). -/
theorem step_of_inputs_nil {s : State} (hi : s.inputs = []) : step s = coreTurn s := by
  rw [step, hi]

/-- The step after `withFetchWord` is CORE's turn on the word, issued (log 2); a word is its own table word. -/
theorem step_withFetchWord (s : State) (w : Word) : step (s.withFetchWord 64 w.toNat) = coreTurn (s.issue w) := by
  have hword : tableWord 64 w.toNat = w := by
    rw [tableWord, Nat.mod_eq_of_lt w.isLt, BitVec.ofNat_toNat, BitVec.setWidth_eq]
  rw [State.withFetchWord, hword]
  exact step_core rfl

/-- Settles O6: in each of the three states the step is CORE's turn, on the word of a command in flight. -/
theorem stepRunsDecodedCommand : Obligations.StepRunsDecodedCommand := by
  refine ⟨fun s i hb hd => ⟨fun hi => ?usedUp, fun rest hi => ?coreNext⟩, fun s i hwf => ?placed⟩
  case usedUp => rw [step_of_inputs_nil hi, coreTurn_of_decode hb hd]
  case coreNext => rw [step_core hi, coreTurn_of_decode (s := { s with inputs := rest }) hb hd]
  case placed =>
    rw [step_withFetchWord]
    exact coreTurn_of_decode (s := s.issue (encode i)) rfl (decodeOfEncode i hwf)

/-- Settles O7: `raise` and `complete` are the shared completion, whose `LASTOP` is the opcode field of `IR`. -/
theorem completionWritesStatus : Obligations.CompletionWritesStatus := fun _ _ => ⟨rfl, rfl⟩

/-- Settles O15: NOP is completion with code 0 and nothing else. -/
theorem nopCompletes : Obligations.NopCompletes := by
  intro s
  obtain ⟨hraise, -⟩ := completionWritesStatus s .success
  exact congrArg Host.Outcome.next hraise

/-- A HOST write of a writable register (20_memory.md R72). -/
theorem hostAccess_write {r : Reg} (hw : r.writable = true) (x : Word) (s : State) :
    hostAccess (.write 64 r.offset x) s = .next (busWrite r x s) := by
  simp [hostAccess, Reg.reached_offset, hw]

/-- Settles O35: each of the offsets is that of a writable register, and the answer is that register's write. -/
theorem busWriteEffects : Obligations.BusWriteEffects := fun s x =>
  ⟨hostAccess_write (r := .cmd) rfl x s, hostAccess_write (r := .status) rfl x s,
    hostAccess_write (r := .arg0) rfl x s, hostAccess_write (r := .arg1) rfl x s,
    hostAccess_write (r := .arg2) rfl x s, hostAccess_write (r := .arg3) rfl x s,
    hostAccess_write (r := .arg4) rfl x s⟩

end Sys2Proof.Machine
end

section
/-! PROOF. The mixer (41_mixer.md): its two words are the halves of the exact product (R150), from which the laws of
R152 and the results of MUM (R153) and MIX (R154) follow. -/

namespace Sys2Proof.Machine

/-- Two words multiplied at 128 bits never wrap (41_mixer.md R150). -/
theorem toNat_setWidth_mul (a b : Word) : (a.setWidth 128 * b.setWidth 128).toNat = a.toNat * b.toNat := by
  have hlt : a.toNat * b.toNat < 2 ^ 64 * 2 ^ 64 := Nat.mul_lt_mul'' a.isLt b.isLt
  rw [BitVec.toNat_mul, BitVec.toNat_setWidth_of_le (by decide), BitVec.toNat_setWidth_of_le (by decide)]
  exact Nat.mod_eq_of_lt (by rwa [← Nat.pow_add] at hlt)

/-- The two words of the mixer, by the exact product (41_mixer.md R150). -/
theorem wymum_eq (a b : Word) :
    wymum a b = (BitVec.ofNat 64 (a.toNat * b.toNat), BitVec.ofNat 64 (a.toNat * b.toNat / 2 ^ 64)) := by
  simp only [wymum, BitVec.extractLsb', toNat_setWidth_mul, Nat.shiftRight_eq_div_pow, pow_zero, Nat.div_one]

/-- The low word is the product's remainder (41_mixer.md R150). -/
theorem toNat_wymum_fst (a b : Word) : (wymum a b).1.toNat = a.toNat * b.toNat % 2 ^ 64 := by
  rw [wymum_eq, BitVec.toNat_ofNat]

/-- The high word is the product's quotient (41_mixer.md R150). -/
theorem toNat_wymum_snd (a b : Word) : (wymum a b).2.toNat = a.toNat * b.toNat / 2 ^ 64 := by
  rw [wymum_eq, BitVec.toNat_ofNat, Nat.mod_eq_of_lt]
  exact Nat.div_lt_of_lt_mul (Nat.mul_lt_mul'' a.isLt b.isLt)

/-- The halves make up the product (41_mixer.md R152). -/
theorem wymum_halves (a b : Word) :
    (wymum a b).2.toNat * 2 ^ 64 + (wymum a b).1.toNat = a.toNat * b.toNat := by
  rw [toNat_wymum_fst, toNat_wymum_snd, Nat.div_add_mod']

/-- The high half stays below the largest word (41_mixer.md R152): the product is at most `(2 ^ 64 - 1) ^ 2`. -/
theorem toNat_wymum_snd_le (a b : Word) : (wymum a b).2.toNat ≤ 2 ^ 64 - 2 := by
  have hprod : a.toNat * b.toNat ≤ (2 ^ 64 - 1) * (2 ^ 64 - 1) :=
    Nat.mul_le_mul (Nat.le_pred_of_lt a.isLt) (Nat.le_pred_of_lt b.isLt)
  rw [toNat_wymum_snd]
  exact Nat.div_le_div_right hprod

theorem wymum_comm (a b : Word) : wymum a b = wymum b a := by
  rw [wymum_eq, wymum_eq, Nat.mul_comm]

theorem wymix_comm (a b : Word) : wymix a b = wymix b a := by
  rw [wymix, wymix, wymum_comm]

theorem wymum_zero (a : Word) : wymum a 0 = (0, 0) := by
  simp [wymum_eq]

theorem wymum_one (a : Word) : wymum a 1 = (a, 0) := by
  simp [wymum_eq, Nat.div_eq_of_lt a.isLt]

theorem wymix_zero (a : Word) : wymix a 0 = 0 := by
  rw [wymix, wymum_zero, BitVec.xor_self]
  rfl

theorem wymix_one (a : Word) : wymix a 1 = a := by
  rw [wymix, wymum_one]
  exact BitVec.xor_zero

/-- Settles O43: each law by its lemma, and the largest product by evaluation. -/
theorem mixerLaws : Obligations.MixerLaws := fun a b =>
  ⟨wymum_comm a b, wymix_comm a b, wymum_zero a, wymix_zero a, wymum_one a, wymix_one a, toNat_wymum_snd_le a b,
    by decide, wymum_halves a b⟩

/-- MUM's meaning (41_mixer.md R153). -/
theorem exec_mum (s : State) :
    exec .mum s = .next { s with res0 := (wymum s.arg0 s.arg1).1, res1 := (wymum s.arg0 s.arg1).2 }.complete := rfl

/-- MIX's meaning (41_mixer.md R154). -/
theorem exec_mix (s : State) : exec .mix s = .next { s with res0 := wymix s.arg0 s.arg1 }.complete := rfl

/-- Settles O16: the mixer's two words are the product's halves. -/
theorem mumWritesProductHalves : Obligations.MumWritesProductHalves := by
  intro s
  rw [exec_mum, wymum_eq]

/-- Settles O17: MIX folds the mixer's two words. -/
theorem mixWritesFoldedProduct : Obligations.MixWritesFoldedProduct := by
  intro s
  rw [exec_mix, wymix, wymum_eq]

end Sys2Proof.Machine
end

section
/-! PROOF. The generator (42_prng.md): what PSEED (R171) and PNEXT (R172, R173) write, and the sequence of states and
outputs of a seeded generator, with its period (R174). -/

namespace Sys2Proof.Machine

/-- PSEED's meaning (42_prng.md R171). -/
theorem exec_pseed (v : Variant) (s : State) :
    exec (.pseed v) s = .next { s with pstate := s.arg0, pvalid := true, pvar := v }.complete := rfl

/-- PNEXT's meaning (42_prng.md R173). -/
theorem exec_pnext (s : State) : exec .pnext s = .next (pnext Config.params s) := rfl

/-- PNEXT of a seeded generator writes both words of `Next` (42_prng.md R173). -/
theorem pnext_of_seeded (P : Params) {s : State} (hv : s.pvalid = true) :
    pnext P s = { s with pstate := (nextState P s.pvar s.pstate).1
                         res0 := (nextState P s.pvar s.pstate).2 }.complete := by
  rw [pnext, if_pos hv]

/-- PNEXT of an unseeded generator (42_prng.md R173). -/
theorem pnext_of_unseeded (P : Params) {s : State} (hv : s.pvalid = false) : pnext P s = s.raise .noctx := by
  simp [pnext, hv]

/-- Settles O18: it is PSEED's meaning. -/
theorem pseedConstructsGenerator : Obligations.PseedConstructsGenerator := exec_pseed

/-- Settles O19: PNEXT's two cases, with `Next` written out. -/
theorem pnextAdvances : Obligations.PnextAdvances := by
  intro s
  rw [exec_pnext]
  refine ⟨fun hv => ?seeded, fun hv => ?unseeded⟩
  case seeded => rw [pnext_of_seeded _ hv, nextState]
  case unseeded => rw [pnext_of_unseeded _ hv]

/-- PNEXT writes neither the generator's valid bit nor its variant (10_state.md R40). -/
@[simp] theorem pnext_pvalid (P : Params) (s : State) : (pnext P s).pvalid = s.pvalid := by
  obtain ⟨-, h⟩ | ⟨-, h⟩ := pnext_cases P s <;> rw [h] <;> rfl

@[simp] theorem pnext_pvar (P : Params) (s : State) : (pnext P s).pvar = s.pvar := by
  obtain ⟨-, h⟩ | ⟨-, h⟩ := pnext_cases P s <;> rw [h] <;> rfl

@[simp] theorem pnextTimes_pvalid (P : Params) (k : Nat) (s : State) : (pnextTimes P k s).pvalid = s.pvalid := by
  induction k with
  | zero => rfl
  | succ k ih => rw [pnextTimes, pnext_pvalid, ih]

@[simp] theorem pnextTimes_pvar (P : Params) (k : Nat) (s : State) : (pnextTimes P k s).pvar = s.pvar := by
  induction k with
  | zero => rfl
  | succ k ih => rw [pnextTimes, pnext_pvar, ih]

/-- One more PNEXT of a seeded generator: `Next` of the state word reached (42_prng.md R172, R173). -/
theorem pnextTimes_succ_nextState (P : Params) {s : State} (hv : s.pvalid = true) (k : Nat) :
    ((pnextTimes P (k + 1) s).pstate, (pnextTimes P (k + 1) s).res0) =
      nextState P s.pvar (pnextTimes P k s).pstate := by
  rw [pnextTimes, pnext_of_seeded P (by rwa [pnextTimes_pvalid]), pnextTimes_pvar]
  rfl

/-- The k-th state word (42_prng.md R174). -/
theorem pnextTimes_pstate (P : Params) {s : State} (hv : s.pvalid = true) (k : Nat) :
    (pnextTimes P k s).pstate = s.pstate + BitVec.ofNat 64 k * (P.of s.pvar).prngAdd := by
  induction k with
  | zero => simp [pnextTimes]
  | succ k ih =>
    calc (pnextTimes P (k + 1) s).pstate
        = (pnextTimes P k s).pstate + (P.of s.pvar).prngAdd := congrArg Prod.fst (pnextTimes_succ_nextState P hv k)
      _ = s.pstate + BitVec.ofNat 64 (k + 1) * (P.of s.pvar).prngAdd := by
        rw [ih, BitVec.ofNat_add, BitVec.add_mul, BitVec.one_mul, BitVec.add_assoc]

/-- The output of one more PNEXT mixes the state word it leaves (42_prng.md R172). -/
theorem pnextTimes_succ_res0 (P : Params) {s : State} (hv : s.pvalid = true) (k : Nat) :
    (pnextTimes P (k + 1) s).res0 =
      wymix (pnextTimes P (k + 1) s).pstate ((pnextTimes P (k + 1) s).pstate ^^^ (P.of s.pvar).prngXor) := by
  obtain ⟨hstate, hout⟩ := Prod.mk.inj (pnextTimes_succ_nextState P hv k)
  rw [hout, hstate]

/-- An odd word is coprime to the number of words, so the first 2^64 multiples of it differ. -/
theorem ofNat_mul_injOn_of_odd {c : Word} (hc : c.getLsbD 0 = true) :
    Set.InjOn (fun k => BitVec.ofNat 64 k * c) (Set.Iio (2 ^ 64)) := by
  intro j hj k hk h
  have hodd : Odd c.toNat := by simpa [BitVec.getLsbD, Nat.odd_iff] using hc
  have hcop : Nat.Coprime (2 ^ 64) c.toNat := hodd.coprime_two_left.pow_left 64
  have hmod : j * c.toNat ≡ k * c.toNat [MOD 2 ^ 64] := by
    simpa [Nat.ModEq] using congrArg BitVec.toNat h
  exact (hmod.cancel_right_of_coprime hcop).eq_of_lt_of_lt hj hk

/-- Settles O44: the states are the first plus the multiples of the constant, which differ where it is odd. -/
theorem generatorSequence : Obligations.GeneratorSequence := by
  intro P s hv
  refine ⟨pnextTimes_pstate P hv, fun k => ?output, fun hodd j k hj hk h => ?period⟩
  case output => rw [pnextTimes_succ_res0 P hv, pnextTimes_pstate P hv]
  case period =>
    rw [pnextTimes_pstate P hv, pnextTimes_pstate P hv] at h
    exact ofNat_mul_injOn_of_odd hodd hj hk (add_left_cancel h)

end Sys2Proof.Machine
end

section
/-! PROOF. The hash commands (43_hash.md R205 to R209): what HINIT, HINITD, HABS and HFIN write, each error with its
cause, and a message absorbed in chunks. -/

namespace Sys2Proof.Machine

/-- HINIT's meaning (43_hash.md R205). -/
theorem exec_hinit (v : Variant) (s : State) :
    exec (.hinit v) s = .next (s.construct s.arg0 s.argTable v).complete := rfl

/-- HINITD's meaning (43_hash.md R206). -/
theorem exec_hinitd (v : Variant) (s : State) :
    exec (.hinitd v) s = .next (s.construct s.arg0 (Config.params.of v).defaultSecret v).complete := rfl

/-- HABS's meaning (43_hash.md R207). -/
theorem exec_habs (c : BitVec 4) (s : State) : exec (.habs c) s = .next (habs c s) := rfl

/-- HFIN's meaning (43_hash.md R208). -/
theorem exec_hfin (s : State) : exec .hfin s = .next (hfin Config.params s) := rfl

/-- Settles O20: it is HINIT's meaning, the construction written out. -/
theorem hinitConstructsContext : Obligations.HinitConstructsContext := exec_hinit

/-- Settles O21: it is HINITD's meaning, the construction written out. -/
theorem hinitdConstructsContext : Obligations.HinitdConstructsContext := exec_hinitd

section
variable {c : BitVec 4} {s : State}

/-- A count above 8 is no count of bytes of one operand (30_encoding.md R104). -/
theorem habs_of_count_too_large (hc : 8 < c.toNat) : habs c s = s.raise .illegal := if_pos hc

theorem count_not_too_large (hc : c.toNat ≤ 8) : ¬ 8 < c := Nat.not_lt.mpr hc

/-- HABS without a context (43_hash.md R207). -/
theorem habs_of_none (hc : c.toNat ≤ 8) (hp : s.hphase = .none) : habs c s = s.raise .noctx := by
  rw [habs, if_neg (count_not_too_large hc), hp]

/-- HABS after HFIN (43_hash.md R207). -/
theorem habs_of_final (hc : c.toNat ≤ 8) (hp : s.hphase = .final) : habs c s = s.raise .seq := by
  rw [habs, if_neg (count_not_too_large hc), hp]

/-- HABS past the longest message (43_hash.md R207). -/
theorem habs_of_overlong (hc : c.toNat ≤ 8) (hp : s.hphase = .opened) (hl : 2 ^ 64 - 1 < s.hlen.toNat + c.toNat) :
    habs c s = s.raise .length := by
  rw [habs, if_neg (count_not_too_large hc), hp]
  exact if_pos hl

/-- HABS of an open context whose new length fits appends the packed bytes (43_hash.md R207). -/
theorem habs_of_fits (hc : c.toNat ≤ 8) (hp : s.hphase = .opened) (hl : s.hlen.toNat + c.toNat ≤ 2 ^ 64 - 1) :
    habs c s = (s.append (packedBytes s.arg0 c.toNat)).complete := by
  rw [habs, if_neg (count_not_too_large hc), hp]
  exact if_neg (Nat.not_lt.mpr hl)

end

/-- Byte k of a word is what stays in the low byte after a shift by k bytes (20_memory.md R81). -/
theorem byteOf_eq_setWidth (w : Word) (k : Nat) : byteOf w k = (w >>> (8 * k)).setWidth 8 := by
  apply BitVec.eq_of_toNat_eq
  rw [byteOf, BitVec.extractLsb'_toNat, BitVec.toNat_setWidth, BitVec.toNat_ushiftRight]

/-- The new message and length of an append of packed bytes, written out (20_memory.md R81). -/
theorem append_packedBytes (s : State) (w : Word) (c : Nat) :
    s.append (packedBytes w c) =
      { s with hmsg := s.hmsg ++ (List.range c).map (fun j => (w >>> (8 * j)).setWidth 8)
               hlen := BitVec.ofNat 64 (s.hlen.toNat + c) } := by
  have hbytes : packedBytes w c = (List.range c).map (fun j => (w >>> (8 * j)).setWidth 8) :=
    List.map_congr_left fun j _ => byteOf_eq_setWidth w j
  rw [State.append, length_packedBytes, hbytes, BitVec.ofNat_add, BitVec.ofNat_toNat, BitVec.setWidth_eq]

/-- Settles O22: one clause per outcome of HABS. -/
theorem habsAppendsOrRaises : Obligations.HabsAppendsOrRaises := by
  intro c s
  rw [exec_habs]
  refine ⟨fun hc => ?illegal, fun hc hp => ?noctx, fun hc hp => ?seq, fun hc hp hl => ?length, fun hc hp hl => ?fits⟩
  case illegal => rw [habs_of_count_too_large hc]
  case noctx => rw [habs_of_none hc hp]
  case seq => rw [habs_of_final hc hp]
  case length => rw [habs_of_overlong hc hp hl]
  case fits => rw [habs_of_fits hc hp hl, append_packedBytes]

/-- HFIN of a context (43_hash.md R208). -/
theorem hfin_of_context (P : Params) {s : State} (hp : s.hphase ≠ .none) :
    hfin P s = { s with res0 := digest P s.hvar s.hseed s.hsec s.hmsg, hphase := .final }.complete := if_neg hp

/-- HFIN without a context (43_hash.md R208). -/
theorem hfin_of_none (P : Params) {s : State} (hp : s.hphase = .none) : hfin P s = s.raise .noctx := if_pos hp

/-- HFIN of the context that HFIN has finalized writes the same digest (43_hash.md R204). -/
theorem hfin_hfin_res0 (P : Params) {s : State} (hp : s.hphase ≠ .none) :
    (hfin P (hfin P s)).res0 = (hfin P s).res0 ∧ (hfin P (hfin P s)).hphase = .final := by
  rw [hfin_of_context P hp, hfin_of_context P (by simp)]
  exact ⟨rfl, rfl⟩

/-- Settles O23: HFIN's two cases, and HFIN twice. -/
theorem hfinWritesDigest : Obligations.HfinWritesDigest := by
  intro s
  refine ⟨fun hp => ?context, fun hp => ?none, fun t u hp ht hu => ?twice⟩
  case context => rw [exec_hfin, hfin_of_context _ hp]
  case none => rw [exec_hfin, hfin_of_none _ hp]
  case twice =>
    cases ht
    cases hu
    exact hfin_hfin_res0 Config.params hp

/-- `t` has the context of `s` with the bytes `bs` absorbed after its message. -/
structure Absorbed (s t : State) (bs : List Byte) : Prop where
  message : t.hmsg = s.hmsg ++ bs
  phase : t.hphase = s.hphase
  seed : t.hseed = s.hseed
  secret : t.hsec = s.hsec
  variant : t.hvar = s.hvar

/-- Bytes absorbed after bytes absorbed are absorbed joined. -/
theorem Absorbed.trans {s t u : State} {bs cs : List Byte} (h : Absorbed s t bs) (h' : Absorbed t u cs) :
    Absorbed s u (bs ++ cs) where
  message := by rw [h'.message, h.message, List.append_assoc]
  phase := h'.phase.trans h.phase
  seed := h'.seed.trans h.seed
  secret := h'.secret.trans h.secret
  variant := h'.variant.trans h.variant

/-- An operand and a HABS that fits absorb the operand's packed bytes (43_hash.md R207). -/
theorem absorbed_habs {s : State} (x : Word) {c : BitVec 4} (hc : c.toNat ≤ 8) (hp : s.hphase = .opened)
    (hl : s.hlen.toNat + c.toNat ≤ 2 ^ 64 - 1) :
    Absorbed s (habs c { s with arg0 := x }) (packedBytes x c.toNat) := by
  rw [habs_of_fits (s := { s with arg0 := x }) hc hp hl]
  exact ⟨rfl, rfl, rfl, rfl, rfl⟩

/-- Chunks leave the length of the message right. -/
theorem absorbAll_wf (chunks : List (Word × BitVec 4)) {s : State} (h : Memory.wf s) :
    Memory.wf (absorbAll chunks s) := by
  induction chunks generalizing s with
  | nil => exact h
  | cons chunk rest ih => exact ih (habs_wf (s := { s with arg0 := chunk.1 }) h chunk.2)

/-- Chunks that fit absorb the bytes they carry, in order (43_hash.md R209). -/
theorem absorbed_absorbAll {chunks : List (Word × BitVec 4)} (hc : ∀ p ∈ chunks, p.2.toNat ≤ 8) {s : State}
    (hs : Memory.wf s) (hp : s.hphase = .opened) (hl : s.hmsg.length + (chunkBytes chunks).length ≤ 2 ^ 64 - 1) :
    Absorbed s (absorbAll chunks s) (chunkBytes chunks) := by
  induction chunks generalizing s with
  | nil => exact ⟨(List.append_nil _).symm, rfl, rfl, rfl, rfl⟩
  | cons chunk rest ih =>
    obtain ⟨x, c⟩ := chunk
    obtain ⟨hc₁, hrest⟩ := List.forall_mem_cons.mp hc
    simp only [chunkBytes, List.length_append, length_packedBytes] at hl
    have hlen : s.hlen.toNat = s.hmsg.length := hs
    have h₁ : Absorbed s (habs c { s with arg0 := x }) (packedBytes x c.toNat) :=
      absorbed_habs x hc₁ hp (by omega)
    have hs₁ : Memory.wf (habs c { s with arg0 := x }) := habs_wf (s := { s with arg0 := x }) hs c
    refine h₁.trans (ih hrest hs₁ (h₁.phase.trans hp) ?_)
    rw [h₁.message, List.length_append, length_packedBytes]
    omega

/-- Settles O49: from an empty message the bytes absorbed are the whole message. -/
theorem chunkingInvariance : Obligations.ChunkingInvariance := by
  intro s chunks hp hmsg hlen hc hl
  have hs : Memory.wf s := by rw [Memory.wf, hlen, hmsg]; rfl
  obtain ⟨message, phase, seed, secret, variant⟩ := absorbed_absorbAll hc hs hp (by rw [hmsg]; simpa using hl)
  rw [hmsg, List.nil_append] at message
  refine ⟨message, ?length, ?digest⟩
  case length => rw [← message]; exact absorbAll_wf chunks hs
  case digest =>
    rw [hfin_of_context _ (by rw [phase, hp]; decide), message, seed, secret, variant]
    rfl

end Sys2Proof.Machine
end

section
/-! PROOF. The loops of the digest (43_hash.md R195, R197) in closed form, by the number of strides and mid blocks taken
(R202), and the digest of a message by its path (R192). -/

namespace Sys2Proof.Machine

/-- The lanes after the first `t` strides of a message, from three equal lanes (43_hash.md R195). -/
def strideTimes (S : Table) (m : List Byte) (sd : Word) : Nat → Lanes
  | 0 => ⟨sd, sd, sd⟩
  | t + 1 => stride S m (48 * t) (strideTimes S m sd t)

/-- The running word after `t` strides: folded lanes, where there was a stride (43_hash.md R192, R196). -/
def strideWord (S : Table) (m : List Byte) (sd : Word) : Nat → Word
  | 0 => sd
  | t + 1 => (strideTimes S m sd (t + 1)).fold

/-- The running word after `k` mid blocks from position `p` (43_hash.md R197). -/
def midTimes (P : Params) (S : Table) (m : List Byte) (sd : Word) (p : Nat) : Nat → Word
  | 0 => sd
  | k + 1 => wymix (read8 m (p + 16 * k) ^^^ tableGet S (P.midSecret k))
      (read8 m (p + 16 * k + 8) ^^^ midTimes P S m sd p k)

/-- The stride loop after `t` strides, with `q` strides and 1 to 48 bytes to go, takes the `q` strides. -/
theorem strideLoop_eq (S : Table) (m : List Byte) (sd : Word) {q r : Nat} (hpos : 0 < r) (hr : r ≤ 48) {f t : Nat}
    (hf : q ≤ f) :
    strideLoop S m f (strideTimes S m sd t) (48 * t) (48 * q + r) = (strideTimes S m sd (t + q), 48 * (t + q), r) := by
  induction q generalizing f t with
  | zero =>
    rw [Nat.mul_zero, Nat.zero_add]
    cases f with
    | zero => rfl
    | succ f => rw [strideLoop, if_neg (by omega)]; rfl
  | succ q ih =>
    obtain ⟨f, rfl⟩ := Nat.exists_eq_add_one_of_ne_zero (n := f) (by omega)
    have hrest : 48 * (q + 1) + r - 48 = 48 * q + r := by omega
    rw [strideLoop, if_pos (by omega), hrest, ← Nat.add_assoc, Nat.add_right_comm]
    exact ih (t := t + 1) (Nat.le_of_succ_le_succ hf)

/-- `Digest`'s stride part of n bytes in closed form (43_hash.md R202). -/
theorem stridesIfLong_eq (S : Table) (m : List Byte) (sd : Word) (n : Nat) :
    stridesIfLong S m sd n = (strideWord S m sd ((n - 1) / 48), 48 * ((n - 1) / 48), n - 48 * ((n - 1) / 48)) := by
  rw [stridesIfLong]
  split
  · next hn =>
    have hloop := strideLoop_eq S m sd (q := (n - 1) / 48) (r := n - 48 * ((n - 1) / 48)) (f := n) (t := 0)
      (by omega) (by omega) (by omega)
    obtain ⟨t, ht⟩ : ∃ t, (n - 1) / 48 = t + 1 := ⟨(n - 1) / 48 - 1, by omega⟩
    rw [Nat.zero_add, Nat.add_sub_cancel' (by omega), ht] at hloop
    rw [strides, ht]
    exact congrArg (fun r : Lanes × Nat × Nat => (r.1.fold, r.2.1, r.2.2)) hloop
  · rw [Nat.div_eq_of_lt (by omega)]
    rfl

/-- The mid loop after `k` blocks, with `q` blocks and 1 to 16 bytes to go, takes the `q` blocks. -/
theorem midLoop_eq (P : Params) (S : Table) (m : List Byte) (sd : Word) (p : Nat) {q r : Nat} (hpos : 0 < r)
    (hr : r ≤ 16) {f k : Nat} (hf : q ≤ f) :
    midLoop P S m f k (midTimes P S m sd p k) (p + 16 * k) (16 * q + r) =
      (midTimes P S m sd p (k + q), p + 16 * (k + q), r) := by
  induction q generalizing f k with
  | zero =>
    rw [Nat.mul_zero, Nat.zero_add]
    cases f with
    | zero => rfl
    | succ f => rw [midLoop, if_neg (by omega)]; rfl
  | succ q ih =>
    obtain ⟨f, rfl⟩ := Nat.exists_eq_add_one_of_ne_zero (n := f) (by omega)
    have hrest : 16 * (q + 1) + r - 16 = 16 * q + r := by omega
    rw [midLoop, if_pos (by omega), hrest, ← Nat.add_assoc k, Nat.add_right_comm k]
    exact ih (k := k + 1) (Nat.le_of_succ_le_succ hf)

/-- The mid blocks of i bytes from position p in closed form (43_hash.md R202). -/
theorem mids_eq (P : Params) (S : Table) (m : List Byte) (sd : Word) (p : Nat) {i : Nat} (hi : 0 < i) :
    mids P S m sd p i = (midTimes P S m sd p ((i - 1) / 16), p + 16 * ((i - 1) / 16), i - 16 * ((i - 1) / 16)) := by
  have h := midLoop_eq P S m sd p (q := (i - 1) / 16) (r := i - 16 * ((i - 1) / 16)) (f := i) (k := 0)
    (by omega) (by omega) (by omega)
  rwa [Nat.add_sub_cancel' (by omega), Nat.zero_add] at h

/-- Settles O46: the closed forms give the counts, and division with remainder the bounds. -/
theorem blockCounts : Obligations.BlockCounts := by
  intro P S m sd n
  have hcount : (if 48 < n then (n - 1) / 48 else 0) = (n - 1) / 48 := by
    split
    · rfl
    · rw [Nat.div_eq_of_lt (by omega)]
  rw [stridesIfLong_eq, hcount]
  refine ⟨⟨rfl, rfl, fun hn => ?_⟩, fun p i hi _ => ?_⟩
  · dsimp only
    omega
  · rw [mids_eq _ _ _ _ _ hi]
    dsimp only
    omega

/-- `Small` of 4 to 16 bytes, its second read q bytes in (43_hash.md R194). -/
theorem small_of_four_le {m : List Byte} {n q : Nat} (hn : 4 ≤ n) (hq : n / 8 * 4 = q) :
    small m n = ((read4 m 0 <<< 32) ||| read4 m q, (read4 m (n - 4) <<< 32) ||| read4 m (n - 4 - q)) := by
  rw [small, if_pos hn, Nat.shiftRight_eq_div_pow, Nat.shiftLeft_eq]
  simp only [Nat.reducePow, hq]

/-- `Small` of 1 to 3 bytes (43_hash.md R194). -/
theorem small_of_lt_four {m : List Byte} {n : Nat} (hpos : 0 < n) (hn : n < 4) : small m n = (read3 m n, 0) := by
  rw [small, if_neg (by omega), if_pos hpos]

/-- A byte as a word. -/
theorem toNat_byteAt_lt (m : List Byte) (i : Nat) : (byteAt m i).toNat < 2 ^ 8 := by
  rw [byteAt, BitVec.toNat_setWidth]
  have := (m.getD i 0).isLt
  omega

/-- A byte below a word that leaves room for it. -/
theorem toNat_shiftLeft_or_byte {a b : Word} (ha : a.toNat < 2 ^ 56) (hb : b.toNat < 2 ^ 8) :
    (a <<< 8 ||| b).toNat = a.toNat * 2 ^ 8 + b.toNat := by
  rw [BitVec.toNat_or, BitVec.toNat_shiftLeft, Nat.mod_eq_of_lt (by rw [Nat.shiftLeft_eq]; omega),
    ← Nat.shiftLeft_add_eq_or_of_lt hb, Nat.shiftLeft_eq]

/-- `R3` is a weighted sum of three bytes (43_hash.md R191). -/
theorem read3_eq (m : List Byte) (k : Nat) :
    read3 m k = BitVec.ofNat 64
      ((m.getD 0 0).toNat * 2 ^ 16 + (m.getD (k / 2) 0).toNat * 2 ^ 8 + (m.getD (k - 1) 0).toNat) := by
  have hbyte (i : Nat) : (byteAt m i).toNat = (m.getD i 0).toNat :=
    BitVec.toNat_setWidth_of_le (by decide)
  have hnest : read3 m k = (byteAt m 0 <<< 8 ||| byteAt m (k / 2)) <<< 8 ||| byteAt m (k - 1) := by
    rw [read3, BitVec.shiftLeft_or_distrib, ← BitVec.shiftLeft_add, Nat.shiftRight_one]
  have h₀ := toNat_byteAt_lt m 0
  have h₁ := toNat_byteAt_lt m (k / 2)
  have h₂ := toNat_byteAt_lt m (k - 1)
  have hhigh := toNat_shiftLeft_or_byte (a := byteAt m 0) (by omega) h₁
  apply BitVec.eq_of_toNat_eq
  rw [hnest, toNat_shiftLeft_or_byte (by omega) h₂, hhigh, BitVec.toNat_ofNat]
  simp only [hbyte] at *
  omega

section
variable {P : Params} {v : Variant} {seed : Word} {S : Table} {m : List Byte}

/-- The digest of at most 16 bytes (43_hash.md R192, R194). -/
theorem digest_of_small {a b : Word} (hn : m.length ≤ 16) (hab : small m m.length = (a, b)) :
    digest P v seed S m = finishDigest P v S a b (premix P v seed S) (BitVec.ofNat 64 m.length) := by
  rw [digest, if_pos hn, hab]

/-- The digest of more than 16 bytes, by its numbers of strides and mid blocks (43_hash.md R192, R198, R202). -/
theorem digest_of_blocks {t k : Nat} (hn : 16 < m.length) (ht : (m.length - 1) / 48 = t)
    (hk : (m.length - 48 * t - 1) / 16 = k) :
    digest P v seed S m = finishDigest P v S (read8 m (m.length - 16)) (read8 m (m.length - 8))
      (midTimes P S m (strideWord S m (premix P v seed S) t) (48 * t) k) (BitVec.ofNat 64 m.length) := by
  have hrest : 0 < m.length - 48 * t := by omega
  simp only [digest, if_neg (Nat.not_le.mpr hn), stridesIfLong_eq, ht, mids_eq _ _ _ _ _ hrest, hk, tail]

end

/-- Settles O47: each length class has its own short-input words, or its own numbers of strides and mid blocks. -/
theorem digestOfMediumMessage : Obligations.DigestOfMediumMessage := by
  intro P v seed S m
  refine ⟨fun hn => ?empty, fun hlo hhi => ?toThree, fun hlo hhi => ?toSeven, fun hlo hhi => ?toFifteen,
    fun hn => ?sixteen, fun hlo hhi => ?oneMid, fun hlo hhi => ?twoMids, fun hlo hhi => ?oneStride,
    fun hlo hhi => ?strideAndMid, fun hlo hhi => ?twoStrides⟩
  case empty => exact digest_of_small (by omega) (by rw [hn]; rfl)
  case toThree => exact digest_of_small (by omega) (by rw [small_of_lt_four hlo (by omega), read3_eq])
  case toSeven => exact digest_of_small (by omega) (small_of_four_le hlo (q := 0) (by omega))
  case toFifteen =>
    have hsmall := small_of_four_le (m := m) (n := m.length) (q := 4) (by omega) (by omega)
    rw [Nat.sub_sub] at hsmall
    exact digest_of_small (by omega) hsmall
  case sixteen => exact digest_of_small (by omega) (hn ▸ small_of_four_le (m := m) (n := 16) (by omega) (q := 8) rfl)
  case oneMid => exact digest_of_blocks hlo (t := 0) (k := 1) (by omega) (by omega)
  case twoMids => exact digest_of_blocks (by omega) (t := 0) (k := 2) (by omega) (by omega)
  case oneStride => exact digest_of_blocks (by omega) (t := 1) (k := 0) (by omega) (by omega)
  case strideAndMid => exact digest_of_blocks (by omega) (t := 1) (k := 1) (by omega) (by omega)
  case twoStrides => exact digest_of_blocks (by omega) (t := 2) (k := 0) (by omega) (by omega)

end Sys2Proof.Machine
end

section
/-! PROOF. The bounded window and the digest of the whole message agree (43_hash.md R210, R211): absorbing byte by byte
leaves what the window keeps of the message, and the reads of its finish are reads of the message. -/

namespace Sys2Proof.Machine

/-- A read of a message's end is a read of the message, further on. -/
theorem read8_drop (m : List Byte) (q i : Nat) : read8 (m.drop q) i = read8 m (q + i) := by
  rw [read8, read8, readLE, readLE, List.drop_drop]

/-- A read that ends within a message does not see what follows it. -/
theorem read8_append {m : List Byte} (r : List Byte) {i : Nat} (hi : i + 8 ≤ m.length) :
    read8 (m ++ r) i = read8 m i := by
  rw [read8, read8, readLE, readLE, List.drop_append_of_le_length (by omega),
    List.take_append_of_le_length (by rw [List.length_drop]; omega)]

/-- A stride of a message's end is a stride of the message, further on. -/
theorem stride_drop (S : Table) (m : List Byte) (q : Nat) (l : Lanes) :
    stride S (m.drop q) 0 l = stride S m q l := by
  simp only [stride, read8_drop, Nat.zero_add, Nat.add_zero]

/-- A stride within a message does not see what follows it. -/
theorem stride_append (S : Table) {m : List Byte} (r : List Byte) {p : Nat} (hp : p + 48 ≤ m.length) (l : Lanes) :
    stride S (m ++ r) p l = stride S m p l := by
  simp (disch := omega) only [stride, read8_append]

/-- Whole strides do not see what follows them. -/
theorem strideTimes_append (S : Table) {m : List Byte} (r : List Byte) (sd : Word) {t : Nat} (ht : 48 * t ≤ m.length) :
    strideTimes S (m ++ r) sd t = strideTimes S m sd t := by
  induction t with
  | zero => rfl
  | succ t ih => rw [strideTimes, strideTimes, ih (by omega), stride_append S r (by omega)]

/-- Mid blocks of a message's end are mid blocks of the message, further on. -/
theorem midTimes_drop (P : Params) (S : Table) (m : List Byte) (sd : Word) (q p k : Nat) :
    midTimes P S (m.drop q) sd p k = midTimes P S m sd (q + p) k := by
  induction k with
  | zero => rfl
  | succ k ih => simp only [midTimes, ih, read8_drop, Nat.add_assoc]

/-- What the window keeps of a message after `t` strides (43_hash.md R210): the lanes, whether there was a stride, the
bytes after the last stride, and its last 16 bytes. -/
def windowOf (S : Table) (sd : Word) (m : List Byte) (t : Nat) : Window where
  lanes := if 0 < t then strideTimes S m sd t else ⟨sd, 0, 0⟩
  strided := decide (0 < t)
  buf := m.drop (48 * t)
  hist := (m.take (48 * t)).drop (48 * t - 16)

section
variable (S : Table) (sd : Word) (m : List Byte) {t : Nat}

/-- The lanes that the next stride starts from. -/
theorem windowOf_lanes :
    (if (windowOf S sd m t).strided then (windowOf S sd m t).lanes
      else ⟨(windowOf S sd m t).lanes.sd, (windowOf S sd m t).lanes.sd, (windowOf S sd m t).lanes.sd⟩) =
      strideTimes S m sd t := by
  cases t <;> rfl

/-- The running word that the window's mid blocks start from. -/
theorem windowOf_word :
    (if (windowOf S sd m t).strided then (windowOf S sd m t).lanes.fold else (windowOf S sd m t).lanes.sd) =
      strideWord S m sd t := by
  cases t <;> rfl

/-- The kept bytes are the message's end. -/
theorem windowOf_kept (ht : 48 * t ≤ m.length) :
    (windowOf S sd m t).hist ++ (windowOf S sd m t).buf = m.drop (48 * t - 16) := by
  have htake : 48 * t - 16 ≤ (m.take (48 * t)).length := by
    rw [List.length_take]
    omega
  rw [windowOf, ← List.drop_append_of_le_length htake, List.take_append_drop]

/-- The pending bytes are those after the strides. -/
theorem length_windowOf_buf : (windowOf S sd m t).buf.length = m.length - 48 * t := List.length_drop

/-- The kept end of the last stride is 16 bytes, where there was a stride. -/
theorem length_windowOf_hist (ht : 48 * t ≤ m.length) :
    (windowOf S sd m t).hist.length = 48 * t - (48 * t - 16) := by
  rw [windowOf, List.length_drop, List.length_take, Nat.min_eq_left ht]

/-- A byte after the pending ones, where 48 or fewer are then pending. -/
theorem windowAbsorb_keep (x : Byte) (hlo : 48 * t ≤ m.length) (hhi : m.length < 48 * t + 48) :
    windowAbsorb S (windowOf S sd m t) x = windowOf S sd (m ++ [x]) t := by
  have hbuf : (windowOf S sd m t).buf ++ [x] = (m ++ [x]).drop (48 * t) := (List.drop_append_of_le_length hlo).symm
  have hlen : ((m ++ [x]).drop (48 * t)).length ≠ 49 := by
    rw [List.length_drop, List.length_append, List.length_singleton]
    omega
  rw [windowAbsorb, hbuf, if_neg hlen]
  simp only [windowOf, strideTimes_append S [x] sd hlo, List.take_append_of_le_length hlo]

/-- A byte after 48 pending ones: a stride is taken. -/
theorem windowAbsorb_stride (x : Byte) (hm : m.length = 48 * t + 48) :
    windowAbsorb S (windowOf S sd m t) x = windowOf S sd (m ++ [x]) (t + 1) := by
  have hbuf : (windowOf S sd m t).buf ++ [x] = (m ++ [x]).drop (48 * t) :=
    (List.drop_append_of_le_length (by omega)).symm
  have hlen : (m ++ [x]).length = 48 * t + 49 := by rw [List.length_append, List.length_singleton, hm]
  have hlanes : stride S ((m ++ [x]).drop (48 * t)) 0 (strideTimes S m sd t) = strideTimes S (m ++ [x]) sd (t + 1) := by
    rw [stride_drop, strideTimes, strideTimes_append S [x] sd (by omega)]
  have hpending : (((m ++ [x]).drop (48 * t)).drop 48).take 1 = (m ++ [x]).drop (48 * (t + 1)) := by
    rw [List.drop_drop, Nat.mul_succ, List.take_of_length_le (by rw [List.length_drop]; omega)]
  have hhist : (((m ++ [x]).drop (48 * t)).drop 32).take 16 =
      ((m ++ [x]).take (48 * (t + 1))).drop (48 * (t + 1) - 16) := by
    have hstart : 48 * t + 32 = 48 * (t + 1) - 16 := by omega
    have hcount : 48 * (t + 1) - (48 * (t + 1) - 16) = 16 := by omega
    rw [List.drop_drop, List.drop_take, hstart, hcount]
  rw [windowAbsorb, hbuf, if_pos (by rw [List.length_drop]; omega), windowOf_lanes]
  simp only [hlanes, hpending, hhist]
  rfl

/-- Absorbing a message byte by byte leaves the window of the message (43_hash.md R210). -/
theorem foldl_windowAbsorb (P : Params) (v : Variant) (seed : Word) :
    m.foldl (windowAbsorb S) (windowStart P v seed S) = windowOf S (premix P v seed S) m ((m.length - 1) / 48) := by
  induction m using List.reverseRecOn with
  | nil => rfl
  | append_singleton m x ih =>
    rw [List.foldl_append, ih, List.foldl_cons, List.foldl_nil, List.length_append, List.length_singleton,
      Nat.add_sub_cancel]
    by_cases hfull : m.length = 48 * ((m.length - 1) / 48) + 48
    · rw [windowAbsorb_stride S _ m x hfull]
      congr 1
      omega
    · rw [windowAbsorb_keep S _ m x (by omega) (by omega)]
      congr 1
      omega

end

/-- The window of a message gives its digest. -/
theorem windowFinish_windowOf (P : Params) (v : Variant) (seed : Word) (S : Table) (m : List Byte) :
    windowFinish P v S (windowOf S (premix P v seed S) m ((m.length - 1) / 48)) m.length = digest P v seed S m := by
  by_cases hn : m.length ≤ 16
  · rw [Nat.div_eq_of_lt (by omega), digest_of_small hn rfl, windowFinish, if_pos hn]
    rfl
  · rw [digest_of_blocks (by omega) rfl rfl, windowFinish, if_neg hn]
    generalize ht : (m.length - 1) / 48 = t
    have hlo : 48 * t ≤ m.length := by omega
    have hpending : 0 < m.length - 48 * t := by omega
    have hblocks : 48 * t - 16 + (48 * t - (48 * t - 16)) = 48 * t := by omega
    have hlast : 48 * t - 16 + (m.length - (48 * t - 16) - 16) = m.length - 16 := by omega
    have hlast' : 48 * t - 16 + (m.length - (48 * t - 16) - 8) = m.length - 8 := by omega
    simp only [windowOf_word, windowOf_kept _ _ _ hlo, length_windowOf_buf, length_windowOf_hist _ _ _ hlo,
      mids_eq _ _ _ _ _ hpending, midTimes_drop, read8_drop, List.length_drop, hblocks, hlast, hlast']

/-- Settles O48: the window of a message gives its digest, and it is bounded. -/
theorem windowAgreesWithDigest : Obligations.WindowAgreesWithDigest := by
  intro P v seed S m
  rw [windowDigest, foldl_windowAbsorb]
  refine ⟨windowFinish_windowOf P v seed S m, ?pending, ?last⟩
  case pending => rw [length_windowOf_buf]; omega
  case last => rw [length_windowOf_hist _ _ _ (by omega)]; omega

end Sys2Proof.Machine
end

section
/-! PROOF. The primality predicate (44_random.md R248) and the table of the secret bytes (R242). -/

namespace Sys2Proof.Machine

/-- The primes are the numbers with two divisors. -/
theorem card_divisors_eq_two_iff (n : Nat) : n.divisors.card = 2 ↔ n.Prime := by
  constructor
  · intro h
    have hn0 : n ≠ 0 := by rintro rfl; simp at h
    have hn1 : n ≠ 1 := by rintro rfl; simp at h
    have hone : 1 ∈ n.properDivisors := Nat.one_mem_properDivisors_iff_one_lt.mpr (by omega)
    rw [← Nat.insert_self_properDivisors hn0, Finset.card_insert_of_notMem Nat.self_notMem_properDivisors] at h
    obtain ⟨d, hd⟩ := Finset.card_eq_one.mp (Nat.succ.inj h)
    obtain rfl : 1 = d := Finset.mem_singleton.mp (hd ▸ hone)
    exact Nat.properDivisors_eq_singleton_one_iff_prime.mp hd
  · intro h
    rw [h.divisors, Finset.card_pair h.one_lt.ne]

/-- Settles O50: the procedure is the primality predicate, and a prime is a number with two divisors. -/
theorem primalityPredicate : Obligations.PrimalityPredicate := fun w =>
  (Laws.isPrime_iff w).trans (card_divisors_eq_two_iff w.toNat).symm

/-- The list of the secret bytes rises strictly (44_random.md R242). -/
theorem secretBytes_ascending (P : Params) : (secretBytes P).Pairwise (fun a b => a.toNat < b.toNat) := by
  refine List.Pairwise.filter _ (List.pairwise_map.mpr ((List.pairwise_lt_range (n := 256)).imp_of_mem ?_))
  intro a b ha hb hab
  rwa [BitVec.toNat_ofNat, BitVec.toNat_ofNat, Nat.mod_eq_of_lt (List.mem_range.mp ha),
    Nat.mod_eq_of_lt (List.mem_range.mp hb)]

/-- Settles O51: the list is filtered from the ascending list of all bytes; the default table is evaluated. -/
theorem secretBytesTable : Obligations.SecretBytesTable :=
  ⟨fun P => ⟨secretBytes_ascending P, fun _ => mem_secretBytes.trans List.contains_iff_mem⟩, by decide +kernel⟩

end Sys2Proof.Machine
end

section
/-! PROOF. The goodness criterion (44_random.md R247): a table is good where each of its words is and each pair is, and
a pair does not know its order. -/

namespace Sys2Proof.Machine

/-- What the criterion asks of a word alone (44_random.md R247): its bytes, its lowest bit, its primality. -/
def GoodAlone (P : Params) (w : Word) : Prop :=
  (∀ j < 8, popcount (byteOf w j) ∈ P.bytePopBand) ∧ (P.requireOdd = true → w.getLsbD 0 = true) ∧
    (P.requirePrime = true → w.toNat.Prime)

/-- What the criterion asks of two words (44_random.md R247): the number of bits in which they differ. -/
def GoodPair (P : Params) (x w : Word) : Prop := popcount (w ^^^ x) ∈ P.pairPopBand

theorem GoodPair.symm {P : Params} {x w : Word} (h : GoodPair P x w) : GoodPair P w x := by
  rwa [GoodPair, BitVec.xor_comm]

/-- One word more against the words before it (44_random.md R247). -/
theorem bytesInBand_and_accept_iff (P : Params) (w : Word) (E : List Word) :
    (bytesInBand P w && accept P w E) = true ↔ GoodAlone P w ∧ ∀ x ∈ E, GoodPair P x w := by
  have himp (b c : Bool) : (!b || c) = true ↔ (b = true → c = true) := by cases b <;> simp
  simp only [bytesInBand, accept, GoodAlone, GoodPair, Bool.and_eq_true, List.all_eq_true, List.mem_range,
    List.contains_iff_mem, himp, Laws.isPrime_iff]
  tauto

/-- `Good` of a list of words, behind the words E, by its words and its pairs (44_random.md R247). -/
theorem goodFrom_iff (P : Params) (ws : List Word) : ∀ E, goodFrom P E ws = true ↔
    (∀ w ∈ ws, GoodAlone P w) ∧ ws.Pairwise (GoodPair P) ∧ ∀ x ∈ E, ∀ w ∈ ws, GoodPair P x w := by
  induction ws with
  | nil => simp [goodFrom]
  | cons w ws ih =>
    intro E
    rw [goodFrom, Bool.and_eq_true, bytesInBand_and_accept_iff, ih]
    simp only [List.mem_append, List.mem_singleton, or_imp, forall_and, forall_eq, List.forall_mem_cons,
      List.pairwise_cons]
    tauto

/-- `Good` of a table (44_random.md R247), by its words and its pairs. -/
theorem good_iff (P : Params) (S : Table) :
    good P S = true ↔ (∀ w ∈ tableList S, GoodAlone P w) ∧ (tableList S).Pairwise (GoodPair P) := by
  simp [good, goodFrom_iff]

/-- Tables with the same words in another order are good together (44_random.md R247). -/
theorem good_of_perm {P : Params} {S T : Table} (h : (tableList S).Perm (tableList T)) : good P S = good P T := by
  rw [Bool.eq_iff_iff, good_iff, good_iff, h.pairwise_iff GoodPair.symm]
  simp only [h.mem_iff]

/-- Settles O57: both exchanges permute the words. -/
theorem goodIsSymmetric : Obligations.GoodIsSymmetric := fun _ a b c d =>
  ⟨good_of_perm (.swap b a [c, d]), good_of_perm (List.perm_append_comm (l₁ := [a]) (l₂ := [b, c, d]))⟩

/-- The words of a table by number. -/
theorem tableList_eq_ofFn (S : Table) : tableList S = List.ofFn (tableGet S) := rfl

/-- Settles O26: the criterion by words and pairs, the words counted. -/
theorem schkReportsGoodness : Obligations.SchkReportsGoodness := by
  intro s
  have hgood : good Config.params s.argTable = true ↔ ∀ i : Fin 4,
      GoodAlone Config.params (tableGet s.argTable i) ∧
        ∀ k < i, GoodPair Config.params (tableGet s.argTable k) (tableGet s.argTable i) := by
    rw [good_iff, tableList_eq_ofFn, List.forall_mem_ofFn_iff, List.pairwise_ofFn, forall_and]
    exact and_congr_right fun _ => ⟨fun h i k hk => h hk, fun h k i hk => h i k hk⟩
  refine ⟨if good Config.params s.argTable then 1 else 0, rfl, ?_, ?_⟩
  · split <;> simp
  · rw [ite_eq_left_iff, imp_iff_not (by decide), not_not, hgood]
    exact forall_congr' fun i => by simp only [GoodAlone, GoodPair, byteOf]; tauto

/-- Settles O53: every word that GenerateSecret accepts is good against those before it (`generateSecret_good`). -/
theorem generatedSecretIsGood : Obligations.GeneratedSecretIsGood := fun _ _ _ _ _ _ hP h => generateSecret_good hP h

end Sys2Proof.Machine
end

section
/-! PROOF. The commands that draw entropy (44_random.md R251 to R255): each writes what it drew, raises what a draw
raised, and otherwise stays in flight (40_control.md R134). -/

namespace Sys2Proof.Machine

section
variable {g : Supply}

/-- The draw of an answer's word (20_memory.md R87). -/
theorem generateSeed_of_ok {e0 e1 e2 e3 e4 e5 e6 e7 : Byte} {rest : List Answer}
    (h : g.answers = .ok e0 e1 e2 e3 e4 e5 e6 e7 :: rest) :
    generateSeed g = .got (e7 ++ e6 ++ e5 ++ e4 ++ e3 ++ e2 ++ e1 ++ e0) ⟨g.stream, rest⟩ := by
  rw [generateSeed, h, ← leWord_eight]

/-- The draw that fails (44_random.md R241). -/
theorem generateSeed_of_fail {rest : List Answer} (h : g.answers = .fail :: rest) :
    generateSeed g = .raised .entropy := by
  rw [generateSeed, h]

/-- The draw without an answer (40_control.md R134). -/
theorem generateSeed_of_nil (h : g.answers = []) : generateSeed g = .waiting := by
  rw [generateSeed, h]

/-- SEEDED GenerateSecret after its draw (44_random.md R245). -/
theorem generateSecret_seeded_of_got {P : Params} (hs : P.secretSrc = .seeded) (v : Variant) (k : Nat) {t : Word}
    {g' : Supply} (h : generateSeed g = .got t g') :
    generateSecret P v k g = secretLoop P v (secretBytes P) k 0 [] ⟨t, g'.answers⟩ := by
  rw [generateSecret, hs, h]

/-- SEEDED GenerateSecret after a draw that failed (44_random.md R241, R245). -/
theorem generateSecret_seeded_of_fail {P : Params} (hs : P.secretSrc = .seeded) (v : Variant) (k : Nat)
    {rest : List Answer} (h : g.answers = .fail :: rest) : generateSecret P v k g = .raised .entropy := by
  rw [generateSecret, hs, generateSeed_of_fail h]

/-- SEEDED GenerateSecret while its draw is unanswered (40_control.md R134). -/
theorem generateSecret_seeded_of_nil {P : Params} (hs : P.secretSrc = .seeded) (v : Variant) (k : Nat)
    (h : g.answers = []) : generateSecret P v k g = .waiting := by
  rw [generateSecret, hs, generateSeed_of_nil h]

/-- DIRECT GenerateSecret is its candidate loop (44_random.md R245). -/
theorem generateSecret_direct {P : Params} (hs : P.secretSrc = .direct) (v : Variant) (k : Nat) :
    generateSecret P v k g = secretLoop P v (secretBytes P) k 0 [] g := by
  rw [generateSecret, hs]

end

/-- Settles O24: RSEED for each answer of its draw. -/
theorem rseedWritesDrawnWord : Obligations.RseedWritesDrawnWord := by
  intro s
  refine ⟨fun e0 e1 e2 e3 e4 e5 e6 e7 rest h => ?_, fun rest h => ?_, fun h => ?_⟩ <;>
    refine congrArg Host.Outcome.next ?_ <;> rw [rseed]
  · rw [generateSeed_of_ok (g := s.supply) h]
  · rw [generateSeed_of_fail (g := s.supply) h]
  · rw [generateSeed_of_nil (g := s.supply) h]; rfl

/-- Settles O25: RSECRET for each outcome of GenerateSecret. -/
theorem rsecretWritesTable : Obligations.RsecretWritesTable := by
  intro v s
  have hexec : exec (.rsecret v) s = .next (rsecret Config.params v s) := rfl
  simp only [hexec, Host.Outcome.next.injEq, rsecret, State.supply]
  refine ⟨fun S g h => ?got, fun e h => ?raised, fun h => ?waiting⟩
  case got => rw [h]; rfl
  case raised => rw [h]
  case waiting =>
    have hw := h.elim id (generateSecret_seeded_of_nil (g := s.supply) rfl v s.effort)
    rw [hw]; rfl

/-- Settles O27: HINITRF for each outcome of GenerateSecret and of the seed draw after it. -/
theorem hinitrfConstructsContext : Obligations.HinitrfConstructsContext := by
  intro v s
  have hexec : exec (.hinitrf v) s = .next (hinitrf Config.params v s) := rfl
  simp only [hexec, Host.Outcome.next.injEq, hinitrf, State.supply]
  refine ⟨fun S g h => ⟨fun seed g' h' => ?got, fun e h' => ?seedRaised, fun h' => ?seedWaiting⟩,
    fun e h => ?raised, fun h => ?waiting⟩
  case got => simp only [h, h']; rfl
  case seedRaised => simp only [h, h']
  case seedWaiting => simp only [h, generateSeed_of_nil h']; rfl
  case raised => rw [h]
  case waiting =>
    have hw := h.elim id (generateSecret_seeded_of_nil (g := s.supply) rfl v s.effort)
    rw [hw]; rfl

section
variable {v : Variant} {c : Cell}

/-- A set cell gives its words without a draw (44_random.md R250). -/
theorem initCell_of_valid (hc : c.valid = true) (P : Params) (k : Nat) (g : Supply) :
    initCell P v k c g = .got c.words g := if_pos hc

/-- An empty cell gives a generated secret (44_random.md R250). -/
theorem initCell_of_empty (hc : c.valid = false) (P : Params) (k : Nat) (g : Supply) :
    initCell P v k c g = generateSecret P v k g := if_neg (by simp [hc])

/-- The commit of a set cell keeps it (44_random.md R250). -/
theorem State.setCell_of_valid {s : State} (hc : (s.cell v).valid = true) :
    s.setCell v ⟨true, (s.cell v).words⟩ = s := by
  rw [← hc]
  exact s.setCell_cell_self v

end

/-- Settles O28: HINITRP for each outcome of the cell's initialization, by the cell, and of the seed draw after it. -/
theorem hinitrpConstructsContext : Obligations.HinitrpConstructsContext := by
  intro v s
  have hexec : exec (.hinitrp v) s = .next (hinitrp Config.params v s) := rfl
  simp only [hexec, Host.Outcome.next.injEq, hinitrp, State.supply]
  refine ⟨fun hc => ?set, fun hc => ?empty, fun h => ?unanswered⟩
  case set =>
    rw [initCell_of_valid hc]
    refine ⟨fun seed g h' => ?setGot, fun e h' => ?setRaised⟩
    case setGot => simp only [h', State.setCell_of_valid hc]; rfl
    case setRaised => simp only [h', State.setCell_of_valid hc]
  case empty =>
    rw [initCell_of_empty hc]
    refine ⟨fun S g h => ⟨fun seed g' h' => ?got, fun e h' => ?seedRaised, fun h' => ?seedWaiting⟩,
      fun e h => ?raised, fun h => ?waiting⟩
    case got => simp only [h, h']; rfl
    case seedRaised => simp only [h, h']
    case seedWaiting => simp only [h, generateSeed_of_nil h']; rfl
    case raised => rw [h]
    case waiting => rw [h]; rfl
  case unanswered =>
    cases hc : (s.cell v).valid with
    | true => simp only [initCell_of_valid hc, generateSeed_of_nil (g := ⟨0, s.answers⟩) h]; rfl
    | false =>
      rw [initCell_of_empty hc, generateSecret_seeded_of_nil (g := ⟨0, s.answers⟩) rfl v s.effort h]; rfl

end Sys2Proof.Machine
end

section
/-! PROOF. The random words behind a candidate (44_random.md R246): eight in a row, from the stream or from as many answers
(R258). -/

namespace Sys2Proof.Machine

section
variable {P : Params} {v : Variant}

/-- A random word is drawn from ENTROPY or not at all, so E_ENTROPY is the only error it raises (44_random.md R241). -/
theorem randomWord_raised {g : Supply} {e : Err} (h : randomWord P v g = .raised e) : e = .entropy := by
  unfold randomWord at h
  split at h
  · cases h
  · obtain ⟨-, hd⟩ | ⟨_, -, hd⟩ | ⟨_, _, _, _, _, _, _, _, _, -, hd⟩ := generateSeed_cases g <;> rw [hd] at h
    · cases h
    · cases h; rfl
    · cases h

/-- The only error of a candidate is that of its draws (44_random.md R246). -/
theorem candidateFrom_raised {bytes : List Byte} {e : Err} {k : Nat} :
    ∀ {j : Nat} {w : Word} {g : Supply}, candidateFrom P v bytes k j w g = .raised e → e = .entropy := by
  induction k with
  | zero => intro j w g h; cases h
  | succ k ih =>
    intro j w g h
    rw [candidateFrom] at h
    split at h
    · exact ih h
    · next e' hr => cases h; exact randomWord_raised hr
    · cases h

/-- Where the random words come, `rs i` from the supply `G i`, the rest of a candidate comes: it keeps the bytes it has
and selects byte i by `rs i` (44_random.md R246). -/
theorem candidateFrom_of_draws (bytes : List Byte) {G : Nat → Supply} {rs : Nat → Word}
    (hdraw : ∀ i < 8, randomWord P v (G i) = .got (rs i) (G (i + 1))) (k : Nat) :
    ∀ {j : Nat} {w : Word}, j + k = 8 → (∀ i, j ≤ i → byteOf w i = 0) →
      ∃ w', candidateFrom P v bytes k j w (G j) = .got w' (G 8) ∧ (∀ i < j, byteOf w' i = byteOf w i) ∧
        ∀ i < 8, j ≤ i → byteOf w' i = selectByte bytes (rs i) := by
  induction k with
  | zero =>
    rintro j w rfl -
    exact ⟨w, rfl, fun _ _ => rfl, fun i hi hji => absurd hji (by omega)⟩
  | succ k ih =>
    intro j w hjk hhigh
    have hbyte (i : Nat) := byteOf_or_shiftLeft w (selectByte bytes (rs j)) (j := j) (k := i) (by omega)
    obtain ⟨w', hw', hlow, hrest⟩ := ih (j := j + 1) (w := w ||| ((selectByte bytes (rs j)).setWidth 64 <<< (8 * j)))
      (by omega) fun i hi => by rw [hbyte, if_neg (by omega), hhigh i (by omega)]
    refine ⟨w', by rw [candidateFrom, hdraw j (by omega)]; exact hw', fun i hi => ?_, fun i hi hji => ?_⟩
    · rw [hlow i (by omega), hbyte, if_neg (by omega)]
    · obtain rfl | hlt := hji.eq_or_lt
      · rw [hlow j (by omega), hbyte, if_pos rfl, hhigh j le_rfl]
        exact BitVec.zero_or
      · exact hrest i hi hlt

/-- A candidate whose eight random words come (44_random.md R246). -/
theorem candidate_of_draws (bytes : List Byte) {G : Nat → Supply} {rs : Nat → Word}
    (hdraw : ∀ i < 8, randomWord P v (G i) = .got (rs i) (G (i + 1))) :
    ∃ w, candidate P v bytes (G 0) = .got w (G 8) ∧ ∀ i < 8, byteOf w i = selectByte bytes (rs i) := by
  obtain ⟨w, hw, -, hbytes⟩ := candidateFrom_of_draws bytes hdraw 8 (j := 0) (w := 0) rfl (by simp [byteOf])
  exact ⟨w, hw, fun i hi => hbytes i hi (Nat.zero_le i)⟩

/-- A SEEDED random word is the output of one advance of the stream (42_prng.md R172, 44_random.md R246). -/
theorem randomWord_seeded (hs : P.secretSrc = .seeded) (g : Supply) :
    randomWord P v g = .got (nextState P v g.stream).2 ⟨(nextState P v g.stream).1, g.answers⟩ := by
  rw [randomWord, hs]

/-- A DIRECT random word is a draw (44_random.md R246). -/
theorem randomWord_direct (hs : P.secretSrc = .direct) (g : Supply) : randomWord P v g = generateSeed g := by
  rw [randomWord, hs]

/-- With fewer answers than random words to come, a DIRECT candidate does what its draw after the last of them does
(44_random.md R241, 40_control.md R134). -/
theorem candidateFrom_direct_of_short (hs : P.secretSrc = .direct) (bytes : List Byte) (t : Word) (as : List Answer)
    {rs : List Word} :
    ∀ {k j : Nat} {w : Word}, rs.length < k →
      (generateSeed ⟨t, as⟩ = .waiting → candidateFrom P v bytes k j w ⟨t, rs.map Answer.ofWord ++ as⟩ = .waiting) ∧
      ∀ e, generateSeed ⟨t, as⟩ = .raised e →
        candidateFrom P v bytes k j w ⟨t, rs.map Answer.ofWord ++ as⟩ = .raised e := by
  induction rs with
  | nil =>
    intro k j w hk
    obtain ⟨k, rfl⟩ := Nat.exists_eq_succ_of_ne_zero (Nat.ne_of_gt hk)
    simp +contextual [candidateFrom, randomWord_direct hs]
  | cons r rs ih =>
    intro k j w hk
    obtain ⟨k, rfl⟩ := Nat.exists_eq_succ_of_ne_zero (Nat.ne_of_gt (Nat.zero_lt_of_lt hk))
    simpa [candidateFrom, randomWord_direct hs] using ih (Nat.lt_of_succ_lt_succ hk)

end

/-- Settles O52: the eight random words are eight outputs of the stream (SEEDED) or eight answers (DIRECT); with fewer
answers the draw after the last decides. -/
theorem candidateFollowsStream : Obligations.CandidateFollowsStream := by
  intro P v t as
  refine ⟨fun hs => ?seeded, fun hs rs => ⟨fun hlen => ?direct, fun hlen => ?short⟩⟩
  case seeded =>
    have hdraw (i : Nat) (_ : i < 8) := randomWord_seeded (v := v) hs ⟨t + BitVec.ofNat 64 i * (P.of v).prngAdd, as⟩
    have hstep (i : Nat) : t + BitVec.ofNat 64 i * (P.of v).prngAdd + (P.of v).prngAdd =
        t + BitVec.ofNat 64 (i + 1) * (P.of v).prngAdd := by
      rw [BitVec.ofNat_add, BitVec.add_mul, BitVec.one_mul, BitVec.add_assoc]
    simp only [nextState, hstep] at hdraw
    obtain ⟨w, hw, hbytes⟩ := candidate_of_draws (secretBytes P) (G := fun i => ⟨_, as⟩) hdraw
    exact ⟨w, by simpa using hw, hbytes⟩
  case direct =>
    obtain ⟨w, hw, hbytes⟩ := candidate_of_draws (P := P) (v := v) (secretBytes P)
      (G := fun i => ⟨t, (rs.drop i).map Answer.ofWord ++ as⟩) (rs := fun i => rs.getD i 0) fun i hi => by
        rw [randomWord_direct hs, List.drop_eq_getElem_cons (hlen ▸ hi), List.getD_eq_getElem _ _ (hlen ▸ hi)]
        exact generateSeed_ofWord _ _ _
    exact ⟨w, by simpa [← hlen] using hw, hbytes⟩
  case short =>
    have hwait := (candidateFrom_direct_of_short (v := v) hs (secretBytes P) t [] hlen (j := 0) (w := 0)).1 rfl
    have hfail := (candidateFrom_direct_of_short (v := v) hs (secretBytes P) t (.fail :: as) hlen (j := 0) (w := 0)).2
    exact ⟨by simpa [candidate] using hwait, hfail .entropy rfl⟩

end Sys2Proof.Machine
end

section
/-! PROOF. The candidate loop of GenerateSecret (44_random.md R245, R249): what it has built and drawn when it returns
(R258), and what the retry cap bounds. -/

namespace Sys2Proof.Machine

section
variable {P : Params} {v : Variant}

/-- How the loop can end before another candidate, or not (44_random.md R245, R249). -/
theorem secretEnd_cases (P : Params) (count : Nat) (acc : List Word) (g : Supply) :
    (∃ S, acc = tableList S ∧ secretEnd P count acc g = some (.got S g)) ∨
      (acc.length ≠ 4 ∧ P.retryCap = some count ∧ secretEnd P count acc g = some (.raised .retry)) ∨
      (acc.length ≠ 4 ∧ P.retryCap ≠ some count ∧ secretEnd P count acc g = none) := by
  unfold secretEnd
  split
  · next a b c d => exact .inl ⟨⟨a, b, c, d⟩, rfl, rfl⟩
  · next hacc =>
    have hlen : acc.length ≠ 4 := fun h => by
      obtain ⟨a, b, c, d, rfl⟩ := List.length_eq_four.mp h
      exact hacc a b c d rfl
    split
    · next hcap => exact .inr (.inl ⟨hlen, hcap, rfl⟩)
    · next hcap => exact .inr (.inr ⟨hlen, hcap, rfl⟩)

variable {bytes : List Byte} {count : Nat} {acc : List Word} {g : Supply}

/-- The loop that ends before another candidate, whatever its time (44_random.md R245). -/
theorem secretLoop_of_end {d : Draw Table} (h : secretEnd P count acc g = some d) (k : Nat) :
    secretLoop P v bytes k count acc g = d := by
  cases k <;> simp only [secretLoop, h, Option.getD_some]

/-- The loop out of time waits (log 4). -/
theorem secretLoop_zero_of_open (h : secretEnd P count acc g = none) :
    secretLoop P v bytes 0 count acc g = .waiting := by
  rw [secretLoop, h, Option.getD_none]

/-- The loop with one more candidate (44_random.md R245). -/
theorem secretLoop_succ_of_got (h : secretEnd P count acc g = none) {w : Word} {g₁ : Supply}
    (hc : candidate P v bytes g = .got w g₁) (k : Nat) :
    secretLoop P v bytes (k + 1) count acc g = secretLoop P v bytes k (count + 1) (acceptInto P acc w) g₁ := by
  simp only [secretLoop, h, hc]

/-- The loop whose candidate raises an error raises it (44_random.md R241). -/
theorem secretLoop_succ_of_raised (h : secretEnd P count acc g = none) {e : Err}
    (hc : candidate P v bytes g = .raised e) (k : Nat) :
    secretLoop P v bytes (k + 1) count acc g = .raised e := by
  simp only [secretLoop, h, hc]

/-- The loop whose candidate waits for an answer waits (40_control.md R134). -/
theorem secretLoop_succ_of_waiting (h : secretEnd P count acc g = none)
    (hc : candidate P v bytes g = .waiting) (k : Nat) : secretLoop P v bytes (k + 1) count acc g = .waiting := by
  simp only [secretLoop, h, hc]

/-- What the loop does (44_random.md R245, R249): it has its table, it is at its cap, it waits, for time or for an
answer, its candidate failed, or it goes on with one more candidate. -/
theorem secretLoop_cases (P : Params) (v : Variant) (bytes : List Byte) (k count : Nat) (acc : List Word) (g : Supply) :
    (∃ S, acc = tableList S ∧ secretLoop P v bytes k count acc g = .got S g) ∨
    (P.retryCap = some count ∧ secretLoop P v bytes k count acc g = .raised .retry) ∨
    (P.retryCap ≠ some count ∧ (k = 0 ∨ candidate P v bytes g = .waiting) ∧
      secretLoop P v bytes k count acc g = .waiting) ∨
    (secretLoop P v bytes k count acc g = .raised .entropy) ∨
    ∃ k' w g₁, k = k' + 1 ∧ acc.length ≠ 4 ∧ P.retryCap ≠ some count ∧ candidate P v bytes g = .got w g₁ ∧
      secretLoop P v bytes k count acc g = secretLoop P v bytes k' (count + 1) (acceptInto P acc w) g₁ := by
  obtain ⟨S, hS, h⟩ | ⟨-, hcap, h⟩ | ⟨hlen, hcap, h⟩ := secretEnd_cases P count acc g
  · exact .inl ⟨S, hS, secretLoop_of_end h k⟩
  · exact .inr (.inl ⟨hcap, secretLoop_of_end h k⟩)
  · cases k with
    | zero => exact .inr (.inr (.inl ⟨hcap, .inl rfl, secretLoop_zero_of_open h⟩))
    | succ k =>
      cases hc : candidate P v bytes g with
      | got w g₁ =>
        exact .inr (.inr (.inr (.inr ⟨k, w, g₁, rfl, hlen, hcap, rfl, secretLoop_succ_of_got h hc k⟩)))
      | raised e =>
        obtain rfl := candidateFrom_raised hc
        exact .inr (.inr (.inr (.inl (secretLoop_succ_of_raised h hc k))))
      | waiting => exact .inr (.inr (.inl ⟨hcap, .inr rfl, secretLoop_succ_of_waiting h hc k⟩))

/-- E_RETRY is raised at the cap only (44_random.md R249). -/
theorem secretLoop_ne_retry (hcap : P.retryCap = none) (k : Nat) :
    ∀ (count : Nat) (acc : List Word) (g : Supply), secretLoop P v bytes k count acc g ≠ .raised .retry := by
  induction k using Nat.strong_induction_on with
  | _ k ih =>
    intro count acc g
    obtain ⟨S, -, h⟩ | ⟨hsome, -⟩ | ⟨-, -, h⟩ | h | ⟨k', w, g₁, hk, -, -, -, h⟩ :=
      secretLoop_cases P v bytes k count acc g
    · simp [h]
    · simp [hcap] at hsome
    · simp [h]
    · simp [h]
    · rw [h]; exact ih k' (by omega) _ _ _

/-- At the cap the loop ends (44_random.md R249). -/
theorem secretEnd_of_cap {n : Nat} (hcap : P.retryCap = some n) (acc : List Word) (g : Supply) :
    ∃ d, secretEnd P n acc g = some d := by
  obtain ⟨S, -, h⟩ | ⟨-, -, h⟩ | ⟨-, hne, -⟩ := secretEnd_cases P n acc g
  · exact ⟨_, h⟩
  · exact ⟨_, h⟩
  · exact absurd hcap hne

/-- Time for more candidates than the cap leaves changes nothing (44_random.md R249). -/
theorem secretLoop_of_cap {n : Nat} (hcap : P.retryCap = some n) (m : Nat) :
    ∀ {count k : Nat} {acc : List Word} {g : Supply}, count + m = n → m ≤ k →
      secretLoop P v bytes k count acc g = secretLoop P v bytes m count acc g := by
  induction m with
  | zero =>
    intro count k acc g hn _
    obtain rfl : count = n := hn
    obtain ⟨d, h⟩ := secretEnd_of_cap hcap acc g
    rw [secretLoop_of_end h, secretLoop_of_end h]
  | succ m ih =>
    intro count k acc g hn hk
    obtain ⟨k, rfl⟩ := Nat.exists_eq_succ_of_ne_zero (Nat.ne_of_gt (Nat.zero_lt_of_lt hk))
    cases h : secretEnd P count acc g with
    | some d => rw [secretLoop_of_end h, secretLoop_of_end h]
    | none =>
      cases hc : candidate P v bytes g with
      | got w g₁ =>
        rw [secretLoop_succ_of_got h hc, secretLoop_succ_of_got h hc]
        exact ih (by omega) (Nat.le_of_succ_le_succ hk)
      | raised e => rw [secretLoop_succ_of_raised h hc, secretLoop_succ_of_raised h hc]
      | waiting => rw [secretLoop_succ_of_waiting h hc, secretLoop_succ_of_waiting h hc]

/-- A SEEDED loop with time for as many candidates as the cap leaves decides (44_random.md R249). -/
theorem secretLoop_seeded_ne_waiting (hs : P.secretSrc = .seeded) {n : Nat} (hcap : P.retryCap = some n) (m : Nat) :
    ∀ (count : Nat) (acc : List Word) (g : Supply), count + m = n → secretLoop P v bytes m count acc g ≠ .waiting := by
  induction m using Nat.strong_induction_on with
  | _ m ih =>
    rintro count acc g rfl
    obtain ⟨S, -, h⟩ | ⟨-, h⟩ | ⟨hne, hwait, -⟩ | h | ⟨m', w, g₁, rfl, -, -, -, h⟩ :=
      secretLoop_cases P v bytes m count acc g
    · simp [h]
    · simp [h]
    · obtain rfl | hwait := hwait
      · exact absurd hcap hne
      · obtain ⟨w, t', hc⟩ := candidateFrom_seeded hs v bytes 8 0 0 g.stream
        exact absurd ((hc g.answers).symm.trans hwait) (by simp)
    · simp [h]
    · rw [h]; exact ih m' (by omega) _ _ _ (by omega)

end

/-- What GenerateSecret does is its loop's doing from the first supply, for every time alike, or that of its draw
(44_random.md R240, R245). -/
theorem generateSecret_cases (P : Params) (v : Variant) (g : Supply) :
    (∃ g₀, (∀ k, generateSecret P v k g = secretLoop P v (secretBytes P) k 0 [] g₀) ∧
      (P.secretSrc = .seeded → ∃ a, g.answers = a :: g₀.answers ∧
        generateSeed g = .got g₀.stream ⟨g.stream, g₀.answers⟩) ∧
      (P.secretSrc = .direct → g₀ = g)) ∨
    (P.secretSrc = .seeded ∧ g.answers ≠ [] ∧ ∀ k, generateSecret P v k g = .raised .entropy) ∨
    (P.secretSrc = .seeded ∧ g.answers = [] ∧ ∀ k, generateSecret P v k g = .waiting) := by
  cases hs : P.secretSrc with
  | direct => exact .inl ⟨g, generateSecret_direct hs v, by simp, fun _ => rfl⟩
  | seeded =>
    obtain ⟨ha, -⟩ | ⟨rest, ha, -⟩ | ⟨_, _, _, _, _, _, _, _, rest, ha, hd⟩ := generateSeed_cases g
    · exact .inr (.inr ⟨rfl, ha, fun k => generateSecret_seeded_of_nil hs v k ha⟩)
    · exact .inr (.inl ⟨rfl, by simp [ha], fun k => generateSecret_seeded_of_fail hs v k ha⟩)
    · exact .inl ⟨_, fun k => generateSecret_seeded_of_got hs v k hd, fun _ => ⟨_, ha, hd⟩, by simp⟩

/-- Settles O56: what GenerateSecret's loop does with and without a cap. -/
theorem retryCapBoundsCandidates : Obligations.RetryCapBoundsCandidates := by
  intro P v k g
  obtain ⟨g₀, hloop, -, -⟩ | ⟨-, -, hraised⟩ | ⟨-, ha, hwait⟩ := generateSecret_cases P v g
  · simp only [hloop]
    exact ⟨fun hcap => secretLoop_ne_retry hcap k 0 [] g₀,
      fun n hcap hk => ⟨secretLoop_of_cap hcap n (Nat.zero_add n) hk, fun hs _ =>
        secretLoop_seeded_ne_waiting hs hcap n 0 [] g₀ (Nat.zero_add n)⟩⟩
  · simp [hraised]
  · simp [hwait, ha]

end Sys2Proof.Machine
end

section
/-! PROOF. What GenerateSecret has built and drawn when it returns (44_random.md R245, R258): the candidates one after
the other, and the answers they have used. -/

namespace Sys2Proof.Machine

/-- Of the answers of a supply the first d are used, and the rest is left. -/
def UsesAnswers (d : Nat) (g g' : Supply) : Prop := ∃ used, used.length = d ∧ g.answers = used ++ g'.answers

theorem UsesAnswers.trans {d e : Nat} {g g₁ g' : Supply} (h : UsesAnswers d g g₁) (h' : UsesAnswers e g₁ g') :
    UsesAnswers (d + e) g g' := by
  obtain ⟨used, rfl, hg⟩ := h
  obtain ⟨used', rfl, hg₁⟩ := h'
  exact ⟨used ++ used', List.length_append, by rw [hg, hg₁, List.append_assoc]⟩

/-- How many answers a random word of a candidate uses (44_random.md R246). -/
def drawsPerWord (P : Params) : Nat :=
  match P.secretSrc with
  | .seeded => 0
  | .direct => 1

section
variable {P : Params} {v : Variant} {bytes : List Byte}

/-- n + 1 candidates are one and then n (44_random.md R245). -/
theorem candidates_succ_eq_got_iff {n : Nat} {g g' : Supply} {ws : List Word} :
    candidates P v bytes (n + 1) g = .got ws g' ↔
      ∃ w g₁ ws₁, candidate P v bytes g = .got w g₁ ∧ candidates P v bytes n g₁ = .got ws₁ g' ∧ w :: ws₁ = ws := by
  constructor
  · intro h
    rw [candidates] at h
    split at h
    · next w g₁ hc =>
      split at h
      · next ws₁ g₂ hws => cases h; exact ⟨w, g₁, ws₁, hc, hws, rfl⟩
      · cases h
      · cases h
    · cases h
    · cases h
  · rintro ⟨w, g₁, ws₁, hc, hws, rfl⟩
    simp only [candidates, hc, hws]

/-- n candidates are n words (44_random.md R245). -/
theorem length_of_candidates {n : Nat} :
    ∀ {g g' : Supply} {ws : List Word}, candidates P v bytes n g = .got ws g' → ws.length = n := by
  induction n with
  | zero => intro g g' ws h; cases h; rfl
  | succ n ih =>
    intro g g' ws h
    obtain ⟨w, g₁, ws₁, -, hws, rfl⟩ := candidates_succ_eq_got_iff.mp h
    rw [List.length_cons, ih hws]

/-- A candidate accepts at most one word (44_random.md R245). -/
theorem length_acceptInto_le (P : Params) (acc : List Word) (w : Word) :
    (acceptInto P acc w).length ≤ acc.length + 1 := by
  unfold acceptInto
  split <;> simp

/-- Candidates accept at most as many words as they are (44_random.md R245). -/
theorem length_foldl_acceptInto_le (P : Params) (ws : List Word) :
    ∀ acc, (ws.foldl (acceptInto P) acc).length ≤ acc.length + ws.length := by
  induction ws with
  | nil => exact fun _ => le_rfl
  | cons w ws ih =>
    intro acc
    have h := ih (acceptInto P acc w)
    have hw := length_acceptInto_le P acc w
    rw [List.foldl_cons, List.length_cons]
    omega

/-- A loop that returns has built candidates up to the first at which four words are accepted, and no more than the cap
leaves (44_random.md R245, R249). -/
theorem secretLoop_got {k : Nat} :
    ∀ {count : Nat} {acc : List Word} {g g' : Supply} {S : Table}, acc.length ≤ 4 →
      secretLoop P v bytes k count acc g = .got S g' →
      ∃ n ws, candidates P v bytes n g = .got ws g' ∧ ws.foldl (acceptInto P) acc = tableList S ∧
        (∀ m < n, ((ws.take m).foldl (acceptInto P) acc).length < 4) ∧
        ∀ cap, P.retryCap = some cap → count ≤ cap → count + n ≤ cap := by
  induction k using Nat.strong_induction_on with
  | _ k ih =>
    intro count acc g g' S hacc hgot
    obtain ⟨T, hT, h⟩ | ⟨-, h⟩ | ⟨-, -, h⟩ | h | ⟨k', w, g₁, hk, hne, hcap, hc, h⟩ :=
      secretLoop_cases P v bytes k count acc g <;> rw [h] at hgot
    · cases hgot
      exact ⟨0, [], rfl, hT, by simp, fun _ _ hle => hle⟩
    · cases hgot
    · cases hgot
    · cases hgot
    · have hlen := length_acceptInto_le P acc w
      obtain ⟨n, ws, hws, hfold, hfirst, hle⟩ := ih k' (by omega) (by omega) hgot
      refine ⟨n + 1, w :: ws, candidates_succ_eq_got_iff.mpr ⟨w, g₁, ws, hc, hws, rfl⟩, hfold, fun m hm => ?_,
        fun cap hP hcount => ?_⟩
      · cases m with
        | zero => exact lt_of_le_of_ne hacc hne
        | succ m => exact hfirst m (Nat.lt_of_succ_lt_succ hm)
      · have hcount' : count ≠ cap := fun h => hcap (h ▸ hP)
        have hmore := hle cap hP (by omega)
        omega

/-- A random word uses no answer (SEEDED) or one (DIRECT) (44_random.md R246). -/
theorem randomWord_usesAnswers {g g' : Supply} {r : Word} (h : randomWord P v g = .got r g') :
    UsesAnswers (drawsPerWord P) g g' := by
  cases hs : P.secretSrc with
  | seeded =>
    rw [randomWord_seeded hs, Draw.got.injEq] at h
    obtain ⟨-, rfl⟩ := h
    exact ⟨[], by simp [drawsPerWord, hs], rfl⟩
  | direct =>
    rw [randomWord_direct hs] at h
    obtain ⟨-, hd⟩ | ⟨_, -, hd⟩ | ⟨_, _, _, _, _, _, _, _, rest, ha, hd⟩ := generateSeed_cases g <;> rw [hd] at h
    · cases h
    · cases h
    · rw [Draw.got.injEq] at h
      obtain ⟨-, rfl⟩ := h
      exact ⟨[_], by simp [drawsPerWord, hs], ha⟩

/-- The answers that k bytes of a candidate use (44_random.md R246). -/
theorem candidateFrom_usesAnswers {k : Nat} :
    ∀ {j : Nat} {w w' : Word} {g g' : Supply}, candidateFrom P v bytes k j w g = .got w' g' →
      UsesAnswers (k * drawsPerWord P) g g' := by
  induction k with
  | zero => intro j w w' g g' h; cases h; exact ⟨[], by simp, rfl⟩
  | succ k ih =>
    intro j w w' g g' h
    rw [candidateFrom] at h
    split at h
    · next r g₁ hr =>
      rw [Nat.succ_mul, Nat.add_comm]
      exact (randomWord_usesAnswers hr).trans (ih h)
    · cases h
    · cases h

/-- The answers that n candidates use (44_random.md R258). -/
theorem candidates_usesAnswers {n : Nat} :
    ∀ {g g' : Supply} {ws : List Word}, candidates P v bytes n g = .got ws g' →
      UsesAnswers (n * (8 * drawsPerWord P)) g g' := by
  induction n with
  | zero => intro g g' ws h; cases h; exact ⟨[], by simp, rfl⟩
  | succ n ih =>
    intro g g' ws h
    obtain ⟨w, g₁, ws₁, hc, hws, rfl⟩ := candidates_succ_eq_got_iff.mp h
    rw [Nat.succ_mul, Nat.add_comm]
    exact (candidateFrom_usesAnswers hc).trans (ih hws)

end

/-- Settles O54: the draw, then the loop that returns; the table has four words, so it took four candidates. -/
theorem generateSecretDraws : Obligations.GenerateSecretDraws := by
  intro P v k g
  refine ⟨fun hs ha => generateSecret_seeded_of_nil hs v k ha,
    fun hs rest ha => generateSecret_seeded_of_fail hs v k ha, fun g' S h => ?_⟩
  obtain ⟨g₀, hloop, hseeded, hdirect⟩ | ⟨-, -, hraised⟩ | ⟨-, -, hwait⟩ := generateSecret_cases P v g
  · rw [hloop] at h
    obtain ⟨n, ws, hws, hfold, hfirst, hcap⟩ := secretLoop_got (by simp) h
    obtain ⟨used, hlen, hused⟩ := candidates_usesAnswers hws
    have hfour : 4 ≤ n := by
      have hle := length_foldl_acceptInto_le P ws []
      rwa [hfold, length_of_candidates hws, List.length_nil, Nat.zero_add] at hle
    refine ⟨g₀, n, ws, hws, hfold, hfirst, hfour, fun cap hP => by simpa using hcap cap hP (Nat.zero_le cap),
      fun hs => ?_, fun hs => ?_⟩
    · obtain ⟨a, ha, hd⟩ := hseeded hs
      obtain rfl : used = [] := List.length_eq_zero_iff.mp (by simpa [drawsPerWord, hs] using hlen)
      rw [List.nil_append] at hused
      exact hused ▸ ⟨⟨a, ha⟩, g₀.stream, hd, rfl⟩
    · obtain rfl := hdirect hs
      exact ⟨rfl, used, by simpa [drawsPerWord, hs, Nat.mul_comm] using hlen, hused⟩
  · rw [hraised] at h; cases h
  · rw [hwait] at h; cases h

end Sys2Proof.Machine
end

section
/-! PROOF. Error completion (60_exceptions.md R302): a command that completes with an error writes `STATUS` and nothing
else, but for HINITRP's cell commit (44_random.md R255). -/

namespace Sys2Proof.Machine

section
variable {s t : State}

/-- A HINITRP whose secret was there raises E_ENTROPY only where its seed draw failed (44_random.md R255). -/
theorem seedDraw_failed_of_hinitrp_raises {P : Params} {v : Variant} {S : Table} {g : Supply} (hb : s.busy = true)
    (hc : initCell P v s.effort (s.cell v) s.supply = .got S g) (h : hinitrp P v s = t.finish .entropy) :
    generateSeed g = .raised .entropy := by
  obtain hstall | ⟨e, he, -⟩ | ⟨S', g', hc', hd, -⟩ | ⟨_, _, _, _, -, -, hdone⟩ := hinitrp_cases P v s
  · have hidle : s.stall.busy = (t.finish .entropy).busy := congrArg State.busy (hstall.symm.trans h)
    simp [hb] at hidle
  · cases hc.symm.trans he
  · cases hc.symm.trans hc'
    exact hd
  · cases congrArg State.err (hdone.symm.trans h)

/-- A command in flight that completes with an error has written `STATUS` alone, or is a HINITRP that had its secret and
whose seed draw failed (60_exceptions.md R302, 44_random.md R255). -/
theorem exec_error_cases {i : Instr} (h : exec i s = .next t) (hb : s.busy = true) (hdone : t.busy = false)
    (herr : t.err ≠ .success) :
    t = s.finish t.err ∨ ∃ v S g, i = .hinitrp v ∧
      initCell Config.params v s.effort (s.cell v) s.supply = .got S g ∧ generateSeed g = .raised .entropy ∧
        t = (s.setCell v ⟨true, S⟩).finish .entropy := by
  cases exec_effect h with
  | waits => exact absurd (hb.symm.trans hdone) (by decide)
  | status i e => exact .inl rfl
  | commits hc =>
    exact .inr ⟨_, _, _, rfl, hc, seedDraw_failed_of_hinitrp_raises hb hc (Host.Outcome.next.inj h), rfl⟩
  | _ => exact absurd rfl herr

end

/-- Settles O9: an illegal word only writes `STATUS`, and a legal one does what a command that raises can do. -/
theorem errorChangesOnlyStatus : Obligations.ErrorChangesOnlyStatus := by
  intro s t hb h hdone herr
  obtain ⟨hidle, -⟩ | ⟨-, -, hillegal⟩ | ⟨i, u, -, hi, hu, hturn⟩ := coreTurn_cases s
  · exact absurd (hb.symm.trans hidle) (by decide)
  · cases h.symm.trans hillegal
    exact .inl rfl
  · cases h.symm.trans hturn
    obtain ht | ⟨v, S, g, rfl, hc, hd, ht⟩ := exec_error_cases hu hb hdone herr
    · rw [ht]; exact .inl rfl
    · rw [ht]; exact .inr ⟨v, S, g, hi, hc, hd, by cases v <;> rfl⟩

end Sys2Proof.Machine
end

section
/-! PROOF. Reset and hazards (70_reset_and_hazards.md): reset and ENTROPY's answers as steps (R340), an RSEED that is
never answered (R347), and the time GenerateSecret has had (R360). -/

namespace Sys2Proof.Machine

section
variable {s : State} {a : Answer} {rest : List Input}

/-- A step in which ENTROPY answers the command in flight (20_memory.md R86). -/
theorem step_answer_of_busy (hi : s.inputs = .answer a :: rest) (hb : s.busy = true) :
    step s = .next { s with inputs := rest, answers := s.answers ++ [a] } := by
  simp [step, hi, move, takeAnswer, hb]

/-- A step in which ENTROPY answers with no command in flight (40_control.md R134). -/
theorem step_answer_of_idle (hi : s.inputs = .answer a :: rest) (hb : s.busy = false) :
    step s = .next { s with inputs := rest } := by
  simp [step, hi, move, takeAnswer, hb]

end

/-- Settles O42: the step of reset, which leaves the block idle, and the steps of an answer. -/
theorem resetAbandonsCommand : Obligations.ResetAbandonsCommand := by
  refine fun s rest => ⟨fun hi => ⟨step_reset hi, ?afterReset⟩,
    fun a hi => ⟨step_answer_of_busy hi, step_answer_of_idle hi⟩⟩
  rintro a rest' rfl
  exact step_answer_of_idle rfl rfl

/-- A step with an RSEED in flight, no move to come and no answer only gives it time (40_control.md R134). -/
theorem step_unanswered_rseed {s : State} (hb : s.busy = true) (hi : s.inputs = []) (hir : s.ir = encode .rseed)
    (ha : s.answers = []) : step s = .next { s with effort := 2 * s.effort + 1 } := by
  have hd : decode s.ir = .ok .rseed := hir ▸ decodeOfEncode .rseed rfl
  obtain ⟨-, -, hwait⟩ := rseedWritesDrawnWord s
  rw [step_of_inputs_nil hi, coreTurn_of_decode hb hd, hwait ha]

/-- Settles O11, by induction on the number of steps: each only gives the command time. -/
theorem unansweredSeedStaysInFlight : Obligations.UnansweredSeedStaysInFlight := by
  intro s k hb hi hir ha
  induction k generalizing s with
  | zero => exact ⟨s.effort, rfl⟩
  | succ k ih =>
    rw [run_succ k (step_unanswered_rseed hb hi hir ha)]
    exact ih { s with effort := 2 * s.effort + 1 } hb hi hir ha

/-- More time does not change what a candidate loop that does not wait has done (44_random.md R249). -/
theorem secretLoop_of_le {P : Params} {v : Variant} {bytes : List Byte} (k : Nat) :
    ∀ {k' count : Nat} {acc : List Word} {g : Supply}, k ≤ k' → secretLoop P v bytes k count acc g ≠ .waiting →
      secretLoop P v bytes k' count acc g = secretLoop P v bytes k count acc g := by
  induction k with
  | zero =>
    intro k' count acc g _ hne
    cases h : secretEnd P count acc g with
    | some d => rw [secretLoop_of_end h, secretLoop_of_end h]
    | none => exact absurd (secretLoop_zero_of_open h) hne
  | succ k ih =>
    intro k' count acc g hk hne
    obtain ⟨k', rfl⟩ := Nat.exists_eq_add_one_of_ne_zero (Nat.ne_zero_of_lt hk)
    cases h : secretEnd P count acc g with
    | some d => rw [secretLoop_of_end h, secretLoop_of_end h]
    | none =>
      cases hc : candidate P v bytes g with
      | got w g₁ =>
        rw [secretLoop_succ_of_got h hc] at hne
        rw [secretLoop_succ_of_got h hc, secretLoop_succ_of_got h hc]
        exact ih (Nat.le_of_succ_le_succ hk) hne
      | raised e => rw [secretLoop_succ_of_raised h hc, secretLoop_succ_of_raised h hc]
      | waiting => exact absurd (secretLoop_succ_of_waiting h hc k) hne

/-- Settles O55: GenerateSecret is its candidate loop, or its draw's failure or wait whatever the time. -/
theorem timeDoesNotChangeTheSecret : Obligations.TimeDoesNotChangeTheSecret := by
  intro P v k k' g hk hne
  obtain ⟨g₀, hloop, -, -⟩ | ⟨-, -, hraised⟩ | ⟨-, -, hwait⟩ := generateSecret_cases P v g
  · rw [hloop] at hne
    rw [hloop, hloop]
    exact secretLoop_of_le k hk hne
  · rw [hraised, hraised]
  · exact absurd (hwait k) hne

end Sys2Proof.Machine
end
